-- ==== Sys2Proof/Word.lean ====
section
/-! DEFINITION. The words EDEC moves: a datagram byte and a 32-bit bus word (R37, R59). -/

namespace Sys2Proof

/-- A byte of the datagram memory (R50). -/
abbrev Byte := BitVec 8

/-- A command word, a register of the register map, or one coefficient (R29, R37, R80). -/
abbrev Word := BitVec 32

end Sys2Proof
end

