-- ==== Sys2Proof/Config.lean ====
section
/-! DEFINITION. What an EDEC fixes and a run never changes: the parameters of R8, the shapes of the four
configuration tables (R9, R131, R145, R157, R159), and the values the spec leaves open (93 U1, U2), which have
no body: nothing can be proved about which value they are. -/

namespace Sys2Proof.Config

/-- MAX_READ of R8: the largest n of READ, PEEK and the internal Read and Peek. -/
abbrev maxRead : Nat := 32

/-- OFFSET_SAT of R8: the value at which the byte offset stops advancing. -/
abbrev offsetSat : Nat := 131072

/-- An entry of RUNTAB: (valid, bits consumed, run length of zeros) (R131). -/
structure RunEntry where
  valid : Bool
  nbits : Nat
  run   : Nat
  deriving DecidableEq, Repr

/-- An entry of LEVTAB: (valid, bits consumed, signed value, end-of-block flag) (R145). -/
structure LevEntry where
  valid : Bool
  nbits : Nat
  value : Int
  eob   : Bool
  deriving DecidableEq, Repr

/-- The four constant tables (R9, R40). Their default contents are in Machine/Tables.lean. -/
structure Tables where
  runTab : BitVec 12 → RunEntry
  levTab : BitVec 15 → LevEntry
  zigzag : Fin 64 → Fin 64
  quant  : Fin 64 → BitVec 8

/-- FREE VALUE (log entry 1): what DGM[a] holds when the host has not written it since power-up (R39, U2). -/
opaque dgmPowerUp : Nat → Byte

/-- FREE VALUE (log entry 2): what BLK[p] holds after power-up, before the first GETBLK (R29, R221, U1). -/
opaque blkPowerUp : Fin 64 → Word

end Sys2Proof.Config
end

