-- ==== Sys2Proof/Syntax.lean ====
section
/-! DEFINITION. The instructions of EDEC: the six host commands (R80) and the eighteen bitstream symbol classes
that GETBLK interprets (R84 to R90), one constructor per row of spec/opcode_table.json. -/

namespace Sys2Proof

/-- One row of the opcode table with its operands. In the symbols `x` is the field of extra bits, as a number with the
first stream bit most significant, and `s` the sign bit (true: negative). -/
inductive Instr where
  -- Format C: host commands (R80)
  | nop
  | bind (len : BitVec 16)
  | read (n : BitVec 6)
  | peek (n : BitVec 6)
  | align
  | getblk (hc : Bool)
  -- Format D: the DC field (R85)
  | dc (d : BitVec 10)
  -- Format U: run codes (R86)
  | run0
  | run1
  | run2to3 (x : BitVec 1)
  | run4to7 (x : BitVec 2)
  | run8to15 (x : BitVec 3)
  | run16to31 (x : BitVec 4)
  | run32to63 (x : BitVec 5)
  | runInvalid
  -- Format L: level codes (R87)
  | lev1 (s : Bool)
  | eob
  | lev2to3 (x : BitVec 1) (s : Bool)
  | lev4to7 (x : BitVec 2) (s : Bool)
  | lev8to15 (x : BitVec 3) (s : Bool)
  | lev16to31 (x : BitVec 4) (s : Bool)
  | lev32to63 (x : BitVec 5) (s : Bool)
  | lev64to127 (x : BitVec 6) (s : Bool)
  | levInvalid
  deriving DecidableEq, Repr

end Sys2Proof
end

