-- ==== Sys2Proof/WellFormed.lean ====
section
/-! DEFINITION. Which instructions have a legal encoding: the one check the fields' widths do not make is
n <= 32 of READ and PEEK (R80). -/

namespace Sys2Proof

/-- The "legal when" column of R80 as far as the operand widths leave it open. -/
def Instr.wellFormed : Instr → Bool
  | .read n => decide (n.toNat ≤ Config.maxRead)
  | .peek n => decide (n.toNat ≤ Config.maxRead)
  | .nop | .bind _ | .align | .getblk _ | .dc _ => true
  | .run0 | .run1 | .run2to3 _ | .run4to7 _ | .run8to15 _ | .run16to31 _ | .run32to63 _ | .runInvalid => true
  | .lev1 _ | .eob | .lev2to3 _ _ | .lev4to7 _ _ | .lev8to15 _ _ | .lev16to31 _ _ => true
  | .lev32to63 _ _ | .lev64to127 _ _ | .levInvalid => true

end Sys2Proof
end

