-- ==== Sys2Proof/Decode.lean ====
section
/-! DEFINITION. Decoding and encoding of both layers: the 32-bit command word (R80 to R83) and the windows of the
bitstream (R84 to R93). A command word is one bus word, so it has no byte order; a window is the next bits of the
stream, the first one most significant (R10). -/

namespace Sys2Proof

/-- Why a command word is no legal command (R83). Every reason ends in ILLEGAL_CMD (R194). -/
inductive DecodeReject where
  /-- op is 0x6 .. 0xF. -/
  | reservedOp
  /-- rsv is not 0. -/
  | reservedBits
  /-- a part of arg that must be 0 is not. -/
  | argNotZero
  /-- n of READ or PEEK is 33 .. 63. -/
  | countTooLarge
  deriving DecidableEq, Repr

/-- READ and PEEK: arg[15:6] must be 0 and n = arg[5:0] at most 32 (R80). -/
def decodeCount (arg : BitVec 16) (mk : BitVec 6 → Instr) : Except DecodeReject Instr :=
  if arg.extractLsb' 6 10 ≠ 0 then .error .argNotZero
  else if Config.maxRead < (arg.extractLsb' 0 6).toNat then .error .countTooLarge
  else .ok (mk (arg.extractLsb' 0 6))

/-- The operand part of the decode, for an op in 0x0 .. 0x5 (R80's table). -/
def decodeArg (op : BitVec 4) (arg : BitVec 16) : Except DecodeReject Instr :=
  if op = 0 then if arg = 0 then .ok .nop else .error .argNotZero
  else if op = 1 then .ok (.bind arg)
  else if op = 2 then decodeCount arg .read
  else if op = 3 then decodeCount arg .peek
  else if op = 4 then if arg = 0 then .ok .align else .error .argNotZero
  else if op = 5 then
    if arg.extractLsb' 1 15 = 0 then .ok (.getblk (arg.getLsbD 0)) else .error .argNotZero
  else .error .reservedOp

/-- Command decode (R81): op first, then rsv, then arg; total over the 2^32 words. -/
def decodeCmd (cw : Word) : Except DecodeReject Instr :=
  if 5 < (cw.extractLsb' 28 4).toNat then .error .reservedOp
  else if cw.extractLsb' 16 12 ≠ 0 then .error .reservedBits
  else decodeArg (cw.extractLsb' 28 4) (cw.extractLsb' 0 16)

/-- The run class of a 12-bit window and its extra bits (R86, R88): the column "selects when". -/
def decodeRun (w : BitVec 12) : Instr :=
  if w.extractLsb' 11 1 = 1 then .run0
  else if w.extractLsb' 10 2 = 1 then .run1
  else if w.extractLsb' 9 3 = 1 then .run2to3 (w.extractLsb' 8 1)
  else if w.extractLsb' 8 4 = 1 then .run4to7 (w.extractLsb' 6 2)
  else if w.extractLsb' 7 5 = 1 then .run8to15 (w.extractLsb' 4 3)
  else if w.extractLsb' 6 6 = 1 then .run16to31 (w.extractLsb' 2 4)
  else if w.extractLsb' 5 7 = 1 then .run32to63 (w.extractLsb' 0 5)
  else .runInvalid

/-- The level class of a 15-bit window, its extra bits and its sign bit (R87, R89). -/
def decodeLev (w : BitVec 15) : Instr :=
  if w.extractLsb' 14 1 = 1 then .lev1 (w.getLsbD 13)
  else if w.extractLsb' 13 2 = 1 then .eob
  else if w.extractLsb' 12 3 = 1 then .lev2to3 (w.extractLsb' 11 1) (w.getLsbD 10)
  else if w.extractLsb' 11 4 = 1 then .lev4to7 (w.extractLsb' 9 2) (w.getLsbD 8)
  else if w.extractLsb' 10 5 = 1 then .lev8to15 (w.extractLsb' 7 3) (w.getLsbD 6)
  else if w.extractLsb' 9 6 = 1 then .lev16to31 (w.extractLsb' 5 4) (w.getLsbD 4)
  else if w.extractLsb' 8 7 = 1 then .lev32to63 (w.extractLsb' 3 5) (w.getLsbD 2)
  else if w.extractLsb' 7 8 = 1 then .lev64to127 (w.extractLsb' 1 6) (w.getLsbD 0)
  else .levInvalid

/-- An instruction's bits in the place it is read from: a command word, or the window of a symbol's position.
Which of the four it is is decided by position alone (R92). -/
inductive Placed where
  | cmd (cw : Word)
  | dc (w : BitVec 10)
  | run (w : BitVec 12)
  | lev (w : BitVec 15)
  deriving DecidableEq, Repr

/-- The decoder over both layers. Only a command word can be refused: a window with no complete code is an
instruction of its own, RUN_INVALID or LEV_INVALID (R91). -/
def decode : Placed → Except DecodeReject Instr
  | .cmd cw => decodeCmd cw
  | .dc w => .ok (.dc w)
  | .run w => .ok (decodeRun w)
  | .lev w => .ok (decodeLev w)

/-- The command word of R96: (op << 28) | arg, rsv = 0. -/
def cmdWord (op : BitVec 4) (arg : BitVec 16) : Word := op ++ (0 : BitVec 12) ++ arg

/-- The sign bit as a number (R89). -/
def signBit (s : Bool) : Nat := if s then 1 else 0

/-- A symbol's pattern of R86, R87 or R91 as (length in bits, value of those bits), first stream bit most
significant. The invalid classes give the prefix of zeros that selects them. A command has none. -/
def symbolCode : Instr → Nat × Nat
  | .nop | .bind _ | .read _ | .peek _ | .align | .getblk _ => (0, 0)
  | .dc d => (10, d.toNat)
  | .run0 => (1, 1)
  | .run1 => (2, 1)
  | .run2to3 x => (4, 2 + x.toNat)
  | .run4to7 x => (6, 4 + x.toNat)
  | .run8to15 x => (8, 8 + x.toNat)
  | .run16to31 x => (10, 16 + x.toNat)
  | .run32to63 x => (12, 32 + x.toNat)
  | .runInvalid => (7, 0)
  | .lev1 s => (2, 2 + signBit s)
  | .eob => (2, 1)
  | .lev2to3 x s => (5, (2 + x.toNat) * 2 + signBit s)
  | .lev4to7 x s => (7, (4 + x.toNat) * 2 + signBit s)
  | .lev8to15 x s => (9, (8 + x.toNat) * 2 + signBit s)
  | .lev16to31 x s => (11, (16 + x.toNat) * 2 + signBit s)
  | .lev32to63 x s => (13, (32 + x.toNat) * 2 + signBit s)
  | .lev64to127 x s => (15, (64 + x.toNat) * 2 + signBit s)
  | .levInvalid => (8, 0)

/-- A window of `width` bits that begins with a symbol's pattern and goes on with the low bits of `tail`. -/
def windowOf (width : Nat) (code : Nat × Nat) (tail : Nat) : Nat :=
  code.2 * 2 ^ (width - code.1) + tail % 2 ^ (width - code.1)

/-- The encoder. For a symbol, `tail` gives the window's bits after the pattern, which the decoder must ignore
(R88, R89); a command word has no such bits. -/
def encode (i : Instr) (tail : Nat) : Placed :=
  match i with
  | .nop => .cmd (cmdWord 0 0)
  | .bind len => .cmd (cmdWord 1 len)
  | .read n => .cmd (cmdWord 2 (n.zeroExtend 16))
  | .peek n => .cmd (cmdWord 3 (n.zeroExtend 16))
  | .align => .cmd (cmdWord 4 0)
  | .getblk hc => .cmd (cmdWord 5 ((BitVec.ofBool hc).zeroExtend 16))
  | .dc d => .dc d
  | .run0 | .run1 | .run2to3 _ | .run4to7 _ | .run8to15 _ | .run16to31 _ | .run32to63 _ | .runInvalid =>
    .run (BitVec.ofNat 12 (windowOf 12 (symbolCode i) tail))
  | .lev1 _ | .eob | .lev2to3 _ _ | .lev4to7 _ _ | .lev8to15 _ _ | .lev16to31 _ _ | .lev32to63 _ _
  | .lev64to127 _ _ | .levInvalid =>
    .lev (BitVec.ofNat 15 (windowOf 15 (symbolCode i) tail))

/-- EncRun's symbol (R163): the run code that stands for r, 0 <= r <= 63. -/
def runSymbolOf (r : Nat) : Instr :=
  if r = 0 then .run0
  else if r = 1 then .run1
  else if r < 4 then .run2to3 (BitVec.ofNat 1 (r - 2))
  else if r < 8 then .run4to7 (BitVec.ofNat 2 (r - 4))
  else if r < 16 then .run8to15 (BitVec.ofNat 3 (r - 8))
  else if r < 32 then .run16to31 (BitVec.ofNat 4 (r - 16))
  else .run32to63 (BitVec.ofNat 5 (r - 32))

/-- EncLev's symbol (R163): the level code that stands for v, 1 <= |v| <= 127. -/
def levSymbolOf (v : Int) : Instr :=
  let m := v.natAbs
  let s := decide (v < 0)
  if m < 2 then .lev1 s
  else if m < 4 then .lev2to3 (BitVec.ofNat 1 (m - 2)) s
  else if m < 8 then .lev4to7 (BitVec.ofNat 2 (m - 4)) s
  else if m < 16 then .lev8to15 (BitVec.ofNat 3 (m - 8)) s
  else if m < 32 then .lev16to31 (BitVec.ofNat 4 (m - 16)) s
  else if m < 64 then .lev32to63 (BitVec.ofNat 5 (m - 32)) s
  else .lev64to127 (BitVec.ofNat 6 (m - 64)) s

/-- The place an opcode-table row's bits `w` are read from, by the number of bits the row has (log entry 11).
Widths 10, 12 and 15 are the table's own windows. In 16 bits (12 and 15 rounded up to bytes) the number alone does
not say which of the two windows it is: a number that fits 12 bits is taken as a run window, else as a level window. -/
def placeTableWord (nbits w : Nat) : Option Placed :=
  if nbits = 32 then if w < 2 ^ 32 then some (.cmd (BitVec.ofNat 32 w)) else none
  else if nbits = 10 then if w < 2 ^ 10 then some (.dc (BitVec.ofNat 10 w)) else none
  else if nbits = 12 then if w < 2 ^ 12 then some (.run (BitVec.ofNat 12 w)) else none
  else if nbits = 15 then if w < 2 ^ 15 then some (.lev (BitVec.ofNat 15 w)) else none
  else if nbits = 16 then
    if w < 2 ^ 12 then some (.run (BitVec.ofNat 12 w))
    else if w < 2 ^ 15 then some (.lev (BitVec.ofNat 15 w)) else none
  else none

/-- What the decoder reads from an opcode-table row's bits. -/
def decodeTableWord (nbits w : Nat) : Option Instr :=
  match placeTableWord nbits w with
  | none => none
  | some p =>
    match decode p with
    | .ok i => some i
    | .error _ => none

end Sys2Proof
end

