-- ==== Sys2Proof/Machine/State.lean ====
section
/-! DEFINITION. The state of EDEC (R20), the transient state of a running GETBLK (R41), the host's waiting actions
(R5, R6), the reasons a step can stop, and the state after reset (R220, R221). -/

namespace Sys2Proof.Machine

/-- The datagram memory: the bytes the host has written since power-up, addresses strictly rising. An address that is
not listed has not been written (log entry 1). -/
abbrev Memory := List Host.Cell

/-- Which symbol the running GETBLK reads next (R92: by position alone), or idle when no command runs (R41). -/
inductive Phase where
  | idle
  | dc
  | run
  | level
  deriving DecidableEq, Repr

/-- One host action (R6). `writeReg` is a plain bus write to the register map (R37, R38): at CMD it is a HostCmd, in the
DGM window a HostWriteDgm, anywhere else nothing. -/
inductive HostAction where
  | reset
  | writeDgm (a : BitVec 16) (b : Byte)
  | cmd (cw : Word)
  | readReg (addr : BitVec 17)
  | writeReg (addr : BitVec 17) (data : Word)
  deriving DecidableEq, Repr

/-- The machine's state. -/
structure State where
  /-- DGM (R39, R51): only the host writes it. -/
  dgm : Memory
  /-- Length in bytes of the bound datagram (R21). -/
  len : BitVec 16
  /-- Byte address of the next refill word (R22). -/
  offset : BitVec 18
  /-- The bit accumulator (R23). -/
  acc : BitVec 64
  /-- How many bits of `acc` are fetched and not consumed (R24). -/
  cnt : BitVec 6
  /-- BLK[0..63] (R29), by natural position. -/
  blk : Vector Word 64
  /-- STATUS.ERR (R32). -/
  err : Bool
  /-- STATUS.CAUSE (R33). -/
  cause : BitVec 4
  /-- STATUS.DCONLY (R34). -/
  dconly : Bool
  /-- STATUS.BLKVALID (R35). -/
  blkvalid : Bool
  /-- RESULT (R36). -/
  result : Word
  /-- Transient (R41): what the running GETBLK reads next. -/
  phase : Phase
  /-- Transient (R41): the zig-zag index i; 0 when idle. -/
  zz : Nat
  /-- Transient (R41): the run of the run entry just looked up; 0 where none is. -/
  run : Nat
  /-- The model's own: the host's actions not yet taken, oldest first (log entry 3). -/
  inbox : List HostAction
  /-- The model's own: bus_rdata (R43), the value of the last register read (log entry 4). -/
  rdata : Word
  deriving DecidableEq, Repr

/-- Why the machine would stop with a fault. EDEC has no such case: every error of R190 is a next state (R196), no
address faults (R52), every command ends (R233). So the type has no constructor, and `fault` is never an outcome. -/
inductive Fault where
  deriving DecidableEq, Repr

/-- Why a step has no meaning. -/
inductive Refusal where
  /-- An instruction with no meaning yet, raised in exec's arm only; no arm raises it. Safe. -/
  | notModelled (mnemonic : String)
  /-- Raised by the host actions readReg and writeReg: a register access, outside the byte-wide DGM window, whose address
  is no multiple of 4 is outside the spec (R57, U6: refuse; log entry 10). No instruction raises it. Safe. -/
  | unalignedRegister
  deriving DecidableEq, Repr

/-- The machine after power-up and reset (R220): the table of R20. BLK is not initialised (R221): each register holds a
free value (log entry 2). DGM is not initialised (R39): nothing is listed as written (log entry 1). -/
def State.reset : State where
  dgm := []
  len := 0
  offset := 0
  acc := 0
  cnt := 0
  blk := Vector.ofFn Config.blkPowerUp
  err := false
  cause := 0
  dconly := false
  blkvalid := false
  result := 0
  phase := .idle
  zz := 0
  run := 0
  inbox := []
  rdata := 0

end Sys2Proof.Machine
end

