-- ==== Sys2Proof/Machine/Tables.lean ====
section
/-! DEFINITION. The contents of the four configuration tables: RUNTAB and LEVTAB as their rules (R130, R132, R146),
ZIGZAG (R157) and QUANT (R159), the spec's defaults (log entry 7), and the well-formedness any other contents must have. -/

namespace Sys2Proof.Machine

/-- clzW(v): the number of leading zero bits of the W-bit number v, W when v = 0 (R11). -/
def clz : Nat → Nat → Nat
  | 0, _ => 0
  | w + 1, v => if v.testBit w then 0 else 1 + clz w v

/-- RunRule(w) in the one formula of R132; seven or more leading zeros give the invalid entry (R140). -/
def runRule (w : BitVec 12) : Config.RunEntry :=
  let z := clz 12 w.toNat
  if 7 ≤ z then ⟨false, 0, 0⟩
  else
    let k := max (z - 1) 0
    let nbits := max 1 (2 * z)
    let x := (w.toNat >>> (12 - nbits)) % 2 ^ k
    ⟨true, nbits, if z = 0 then 0 else 2 ^ k + x⟩

/-- LevRule(w) in the one formula of R146; z = 1 is the end-of-block code, eight or more leading zeros give the
invalid entry (R155). -/
def levRule (w : BitVec 15) : Config.LevEntry :=
  let z := clz 15 w.toNat
  if 8 ≤ z then ⟨false, 0, 0, false⟩
  else if z = 1 then ⟨true, 2, 0, true⟩
  else
    let k := max (z - 1) 0
    let nbits := if z = 0 then 2 else 2 * z + 1
    let x := (w.toNat >>> (15 - nbits + 1)) % 2 ^ k
    let m : Nat := if z = 0 then 1 else 2 ^ k + x
    let s := (w.toNat >>> (15 - nbits)) % 2
    ⟨true, nbits, if s = 1 then -(m : Int) else m, false⟩

/-- The classical zig-zag scan, listed by zig-zag index as in R157. -/
def zigzagList : List Nat :=
  [ 0,  1,  8, 16,  9,  2,  3, 10,
   17, 24, 32, 25, 18, 11,  4,  5,
   12, 19, 26, 33, 40, 48, 41, 34,
   27, 20, 13,  6,  7, 14, 21, 28,
   35, 42, 49, 56, 57, 50, 43, 36,
   29, 22, 15, 23, 30, 37, 44, 51,
   58, 59, 52, 45, 38, 31, 39, 46,
   53, 60, 61, 54, 47, 55, 62, 63]

/-- ZIGZAG[i] (R157). -/
def zigzag (i : Fin 64) : Fin 64 := Fin.ofNat 64 (zigzagList.getD i.val 0)

/-- QUANT[8r + c] = 3 + 2(r + c) (R159). -/
def quant (p : Fin 64) : BitVec 8 := BitVec.ofNat 8 (3 + 2 * (p.val / 8 + p.val % 8))

/-- The configuration the machine runs with: the spec's defaults (log entry 7). -/
def tables : Config.Tables where
  runTab := runRule
  levTab := levRule
  zigzag := zigzag
  quant := quant

/-- Two W-bit windows share their top n bits. -/
def sameTop (width n v w : Nat) : Prop := v / 2 ^ (width - n) = w / 2 ^ (width - n)

/-- R131's condition on the entry at one window, against every other window. -/
def runTabWf (tab : BitVec 12 → Config.RunEntry) : Prop :=
  ∀ w, if (tab w).valid
    then 1 ≤ (tab w).nbits ∧ (tab w).nbits ≤ 12 ∧ (tab w).run ≤ 63 ∧
      ∀ v, sameTop 12 (tab w).nbits v.toNat w.toNat → tab v = tab w
    else tab w = ⟨false, 0, 0⟩

/-- R145's condition on the entry at one window, against every other window. -/
def levTabWf (tab : BitVec 15 → Config.LevEntry) : Prop :=
  ∀ w, if (tab w).valid
    then 1 ≤ (tab w).nbits ∧ (tab w).nbits ≤ 15 ∧ -127 ≤ (tab w).value ∧ (tab w).value ≤ 127 ∧
      ((tab w).eob = true → (tab w).value = 0) ∧ ((tab w).eob = false → (tab w).value ≠ 0) ∧
      ∀ v, sameTop 15 (tab w).nbits v.toNat w.toNat → tab v = tab w
    else tab w = ⟨false, 0, 0, false⟩

/-- R157's condition: a permutation of 0..63 that fixes 0. (One-to-one on a finite set is a permutation.) -/
def zigzagWf (zz : Fin 64 → Fin 64) : Prop := (∀ i j, zz i = zz j → i = j) ∧ zz 0 = 0

/-- A well-formed configuration (R9). R159's condition on QUANT, entries in 0..255, is its type. -/
def tablesWf (T : Config.Tables) : Prop := runTabWf T.runTab ∧ levTabWf T.levTab ∧ zigzagWf T.zigzag

end Sys2Proof.Machine
end

