-- ==== Sys2Proof/Machine/Flags.lean ====
section
/-! DEFINITION. STATUS: its word as the host reads it (R31), the cause codes (R190), and the flag updates the commands
make (R34, R35). -/

namespace Sys2Proof.Machine

/-- The four errors of R190. -/
inductive Cause where
  | overrun
  | badRun
  | badLevel
  | illegalCmd
  deriving DecidableEq, Repr

/-- The cause code STATUS.CAUSE records (R190). -/
def causeCode : Cause → BitVec 4
  | .overrun => 1
  | .badRun => 2
  | .badLevel => 3
  | .illegalCmd => 4

/-- STATUS as a word (R31): ERR in bit 0, DCONLY in bit 1, BLKVALID in bit 2, CAUSE in bits 7:4, every other bit 0. -/
def statusWord (s : State) : Word :=
  (0 : BitVec 24) ++ s.cause ++ (0 : BitVec 1) ++ BitVec.ofBool s.blkvalid ++ BitVec.ofBool s.dconly ++
    BitVec.ofBool s.err

/-- The start of a GETBLK: BLKVALID <- 0 (R35), DCONLY <- 1 - hc (R34). -/
def startFlags (hc : Bool) (s : State) : State := { s with blkvalid := false, dconly := !hc }

/-- The end of a GETBLK without error: BLKVALID <- 1 (R35). -/
def setBlkvalid (s : State) : State := { s with blkvalid := true }

/-- The hc operand of the running GETBLK, which DCONLY holds as 1 - hc (R34). -/
def hasCoefficients (s : State) : Bool := !s.dconly

end Sys2Proof.Machine
end

