-- ==== Sys2Proof/Machine/Ops.lean ====
section
/-! DEFINITION. The named operations over memory, the cursor, the errors and the coefficient block. -/

namespace Sys2Proof.Machine

-- The datagram memory (R39, R50, R51)

/-- The byte listed at an address; none when the host has not written it since power-up. -/
def memLookup : Memory → Nat → Option Byte
  | [], _ => none
  | (k, v) :: rest, a => if k = a then some v else memLookup rest a

/-- DGM[a] <- b, keeping the addresses strictly rising. Nothing is ever removed: an unlisted address reads as no byte. -/
def memWrite : Memory → Nat → Byte → Memory
  | [], a, b => [(a, b)]
  | (k, v) :: rest, a, b =>
    if a < k then (a, b) :: (k, v) :: rest
    else if a = k then (a, b) :: rest
    else (k, v) :: memWrite rest a b

/-- The canonical form: every address listed is at least `lo` and below 65536 (R50), addresses strictly rising. -/
def memWfFrom : Nat → Memory → Bool
  | _, [] => true
  | lo, (k, _) :: rest => decide (lo ≤ k ∧ k < 65536) && memWfFrom (k + 1) rest

/-- Memory's canonical form. -/
def memWf (m : Memory) : Bool := memWfFrom 0 m

/-- DGM[a]: the byte the host wrote, or the free value of an address it has not written (R39, U2, log entry 1). -/
def dgmCell (s : State) (a : Nat) : Byte := (memLookup s.dgm a).getD (Config.dgmPowerUp a)

/-- DgmByte(a): what the engine sees; 0x00 at and beyond len, where DGM is not read at all (R52). -/
def dgmByte (s : State) (a : Nat) : Byte := if a < s.len.toNat then dgmCell s a else 0

/-- MemRead(a, 4): four bytes as one big-endian number (R55). -/
def memRead4 (s : State) (a : Nat) : Nat :=
  (dgmByte s a).toNat * 2 ^ 24 + (dgmByte s (a + 1)).toNat * 2 ^ 16 + (dgmByte s (a + 2)).toNat * 2 ^ 8 +
    (dgmByte s (a + 3)).toNat

-- The bit cursor (R110 to R113)

/-- Refill() (R110). The low 32 bits of acc << 32 are 0, so the bitwise or of R110 is a sum. -/
def refill (s : State) : State :=
  { s with
    acc := BitVec.ofNat 64 (s.acc.toNat * 2 ^ 32 + memRead4 s s.offset.toNat)
    cnt := BitVec.ofNat 6 (s.cnt.toNat + 32)
    offset := BitVec.ofNat 18 (min (s.offset.toNat + 4) Config.offsetSat) }

/-- The refills of Peek(n), n <= 32: at most one, since one adds 32 >= n bits (R111). -/
def fill (n : Nat) (s : State) : State := if s.cnt.toNat < n then refill s else s

/-- The value Peek(n) returns (R111). The state it leaves is `fill n s`. -/
def peekBits (n : Nat) (s : State) : Nat :=
  ((fill n s).acc.toNat >>> ((fill n s).cnt.toNat - n)) % 2 ^ n

/-- Consume n of the fetched bits: cnt <- cnt - n, then acc <- acc mod 2^cnt (R112). -/
def consume (n : Nat) (s : State) : State :=
  { s with
    cnt := BitVec.ofNat 6 (s.cnt.toNat - n)
    acc := BitVec.ofNat 64 (s.acc.toNat % 2 ^ (s.cnt.toNat - n)) }

/-- The state Read(n) leaves, its value being `peekBits n s` (R112); with the value discarded it is Skip(n) (R113). -/
def skip (n : Nat) (s : State) : State := consume n (fill n s)

/-- A new cursor at bit 0, its accumulator empty (R65, R117, R220). -/
def rewind (s : State) : State := { s with offset := 0, acc := 0, cnt := 0 }

/-- RESULT <- zext_32(v) (R36). -/
def setResult (v : Nat) (s : State) : State := { s with result := BitVec.ofNat 32 v }

-- Errors (R196, R200)

/-- raise Corrupt(cause) (R196): ERR <- 1, CAUSE <- the code, nothing else. The command then ends. -/
def takeError (c : Cause) (s : State) : State := { s with err := true, cause := causeCode c }

/-- Leaving the error condition, by BIND and reset only (R200): ERR <- 0, CAUSE <- 0. -/
def clearError (s : State) : State := { s with err := false, cause := 0 }

-- GETBLK's transient state (R41)

/-- The end of the running GETBLK: its transient state has no value between commands (R41). -/
def endGetblk (s : State) : State := { s with phase := .idle, zz := 0, run := 0 }

/-- An error inside GETBLK: error entry, then the command ends (R196). -/
def failGetblk (c : Cause) (s : State) : State := endGetblk (takeError c s)

/-- GETBLK ends without error (R35). -/
def finishGetblk (s : State) : State := endGetblk (setBlkvalid s)

/-- The next pair is read with zig-zag index i. -/
def awaitRun (i : Nat) (s : State) : State := { s with phase := .run, zz := i, run := 0 }

/-- The level code of the pair is read, its run being r. -/
def awaitLevel (r : Nat) (s : State) : State := { s with phase := .level, run := r }

-- The coefficient block (R29, R171, R162)

/-- A block of 64 zeros (R171). -/
def zeroBlk : Vector Word 64 := Vector.replicate 64 0

/-- BLK[p] <- v. -/
def writeBlk (p : Fin 64) (v : Word) (s : State) : State := { s with blk := s.blk.set p.val v p.isLt }

/-- The dequantising multiply: an exact product of integers, stored in 32-bit two's complement (R162). -/
def dequant (v : Int) (q : BitVec 8) : Word := BitVec.ofInt 32 (v * q.toNat)

-- What GETBLK does with each kind of symbol (R170)

/-- GETBLK up to its first symbol: the flags, the zero fill (R170). -/
def startGetblk (hc : Bool) (s : State) : State :=
  { startFlags hc s with blk := zeroBlk, phase := .dc, zz := 0, run := 0 }

/-- The 10-bit window of the DC field. -/
def dcWindow (s : State) : BitVec 10 := BitVec.ofNat 10 (peekBits 10 s)

/-- The 12-bit window that indexes RUNTAB. -/
def runWindow (s : State) : BitVec 12 := BitVec.ofNat 12 (peekBits 12 s)

/-- The 15-bit window that indexes LEVTAB. -/
def levWindow (s : State) : BitVec 15 := BitVec.ofNat 15 (peekBits 15 s)

/-- The DC field of value d: consume 10 bits, BLK[0] <- d QUANT[0]; with hc = 0 the block ends here (R160, R172),
else the first pair is read with i = 1. -/
def dcSymbol (T : Config.Tables) (d : BitVec 10) (s : State) : State :=
  let t := writeBlk 0 (dequant d.toNat (T.quant 0)) (skip 10 s)
  if hasCoefficients s then awaitRun 1 t else finishGetblk t

/-- A run entry: look at 12 bits; BAD_RUN on an invalid entry with nothing consumed, else consume its bits and keep its
run for the level code (R173, R177). -/
def runSymbol (e : Config.RunEntry) (s : State) : State :=
  let t := fill 12 s
  if e.valid then awaitLevel e.run (skip e.nbits t) else failGetblk .badRun t

/-- Place a value at zig-zag index i + run (R175, R161), or OVERRUN beyond index 63 (R176). -/
def storeLevel (T : Config.Tables) (value : Int) (s : State) : State :=
  if h : s.zz + s.run ≤ 63 then
    let j := T.zigzag ⟨s.zz + s.run, by omega⟩
    awaitRun (s.zz + s.run + 1) (writeBlk j (dequant value (T.quant j)) s)
  else failGetblk .overrun s

/-- A level entry: look at 15 bits; BAD_LEVEL on an invalid entry with nothing of the window consumed, else consume its
bits; then the end-of-block test before the overrun test (R174, R177, R198). -/
def levSymbol (T : Config.Tables) (e : Config.LevEntry) (s : State) : State :=
  let t := fill 15 s
  if e.valid then
    if e.eob then finishGetblk (skip e.nbits t) else storeLevel T e.value (skip e.nbits t)
  else failGetblk .badLevel t

/-- GETBLK's loop from a run position: one pair an iteration, at most `fuel` of them. From i = 1 it needs at most 64
(R179), each storing iteration raising i. -/
def pairLoop (T : Config.Tables) : Nat → State → State
  | 0, s => s
  | fuel + 1, s =>
    let t := runSymbol (T.runTab (runWindow s)) s
    if t.phase = .level then
      let u := levSymbol T (T.levTab (levWindow t)) t
      if u.phase = .run then pairLoop T fuel u else u
    else t

/-- GETBLK(hc) over any tables (R170). -/
def getblk (T : Config.Tables) (hc : Bool) (s : State) : State :=
  let s0 := startGetblk hc s
  let s1 := dcSymbol T (dcWindow s0) s0
  if s1.phase = .run then pairLoop T 64 s1 else s1

-- The register map (R37)

/-- The register map is a word's address wide; the DGM window begins here. -/
def dgmWindow : Nat := 0x10000

/-- A register access that the spec describes: an aligned word, or a byte of the DGM window (R37, R57, U6). -/
def accessAligned (addr : BitVec 17) : Bool :=
  decide (dgmWindow ≤ addr.toNat) || decide (addr.toNat % 4 = 0)

/-- The content of the register map at an address (R37). Reserved addresses read 0, as CMD does; a DGM byte is
zero-extended (log entry 15). -/
def readReg (s : State) (addr : BitVec 17) : Word :=
  let a := addr.toNat
  if dgmWindow ≤ a then (dgmCell s (a - dgmWindow)).zeroExtend 32
  else if a = 0x04 then statusWord s
  else if a = 0x08 then s.result
  else if a = 0x0C then s.len.zeroExtend 32
  else if a = 0x10 then s.offset.zeroExtend 32
  else if a = 0x14 then s.cnt.zeroExtend 32
  else if a = 0x18 then s.acc.extractLsb' 0 32
  else if a = 0x1C then s.acc.extractLsb' 32 32
  else if 0x100 ≤ a ∧ a < 0x200 then s.blk[Fin.ofNat 64 ((a - 0x100) / 4)]
  else 0

-- Interface signals (R43)

/-- err: the level copy of STATUS.ERR (R43, R199). -/
def pinErr (s : State) : Bool := s.err

/-- blk_valid: the level copy of STATUS.BLKVALID (R43, R199). -/
def pinBlkValid (s : State) : Bool := s.blkvalid

/-- bus_ready: low while a command is executing (R43, R227). -/
def pinBusReady (s : State) : Bool := decide (s.phase = .idle)

end Sys2Proof.Machine
end

