-- ==== Sys2Proof/Machine/Operands.lean ====
section
/-! DEFINITION. Operand assembly of the symbols: the table entry each symbol class stands for, from its fields (R88,
R89, R133 to R140, R147 to R155), and the commands' operand (R82). -/

namespace Sys2Proof.Machine

/-- A valid run entry: a code of `nbits` bits whose run is 2^k + x (R88). -/
def runEntry (nbits base : Nat) (x : Nat) : Config.RunEntry := ⟨true, nbits, base + x⟩

/-- A valid level entry with a value: magnitude 2^k + x, negative when the sign bit is one (R89). -/
def levEntry (nbits base : Nat) (x : Nat) (s : Bool) : Config.LevEntry :=
  ⟨true, nbits, if s then -((base + x : Nat) : Int) else ((base + x : Nat) : Int), false⟩

/-- The entry of the windows with no complete run code (R140). -/
def invalidRunEntry : Config.RunEntry := ⟨false, 0, 0⟩

/-- The entry of the windows with no complete level code (R155). -/
def invalidLevEntry : Config.LevEntry := ⟨false, 0, 0, false⟩

/-- The end-of-block entry (R148). -/
def eobEntry : Config.LevEntry := ⟨true, 2, 0, true⟩

/-- The RUNTAB entry a run class stands for (R133 to R140); none for what is no run symbol. -/
def runEntryOf : Instr → Option Config.RunEntry
  | .run0 => some (runEntry 1 0 0)
  | .run1 => some (runEntry 2 1 0)
  | .run2to3 x => some (runEntry 4 2 x.toNat)
  | .run4to7 x => some (runEntry 6 4 x.toNat)
  | .run8to15 x => some (runEntry 8 8 x.toNat)
  | .run16to31 x => some (runEntry 10 16 x.toNat)
  | .run32to63 x => some (runEntry 12 32 x.toNat)
  | .runInvalid => some invalidRunEntry
  | .nop | .bind _ | .read _ | .peek _ | .align | .getblk _ | .dc _ => none
  | .lev1 _ | .eob | .lev2to3 _ _ | .lev4to7 _ _ | .lev8to15 _ _ | .lev16to31 _ _ => none
  | .lev32to63 _ _ | .lev64to127 _ _ | .levInvalid => none

/-- The LEVTAB entry a level class stands for (R147 to R155); none for what is no level symbol. -/
def levEntryOf : Instr → Option Config.LevEntry
  | .lev1 s => some (levEntry 2 1 0 s)
  | .eob => some eobEntry
  | .lev2to3 x s => some (levEntry 5 2 x.toNat s)
  | .lev4to7 x s => some (levEntry 7 4 x.toNat s)
  | .lev8to15 x s => some (levEntry 9 8 x.toNat s)
  | .lev16to31 x s => some (levEntry 11 16 x.toNat s)
  | .lev32to63 x s => some (levEntry 13 32 x.toNat s)
  | .lev64to127 x s => some (levEntry 15 64 x.toNat s)
  | .levInvalid => some invalidLevEntry
  | .nop | .bind _ | .read _ | .peek _ | .align | .getblk _ | .dc _ => none
  | .run0 | .run1 | .run2to3 _ | .run4to7 _ | .run8to15 _ | .run16to31 _ | .run32to63 _ | .runInvalid => none

/-- A READ or PEEK operand that can run: n <= 32; any other n is an illegal command (R118, R119). -/
def countLegal (n : BitVec 6) : Bool := decide (n.toNat ≤ Config.maxRead)

end Sys2Proof.Machine
end

