-- ==== Sys2Proof/Machine/Block.lean ====
section
/-! DEFINITION. The meaning of GETBLK (R170): one command decodes one whole block, over the configured tables (R9). -/

namespace Sys2Proof.Machine

/-- GETBLK hc in the configuration T (R9, R170): from the zero fill to the end of the block or its error, in one step
(R6). -/
def execGetblkOver (T : Config.Tables) (hc : Bool) (s : State) : Host.Outcome State Fault Refusal :=
  .next (getblk T hc s)

/-- GETBLK hc at the default tables. -/
def execGetblk (hc : Bool) (s : State) : Host.Outcome State Fault Refusal := execGetblkOver tables hc s

end Sys2Proof.Machine
end

