-- ==== Sys2Proof/Machine/Cursor.lean ====
section
/-! DEFINITION. The meanings of the five cursor commands: NOP, BIND, READ, PEEK, ALIGN (R116 to R121). -/

namespace Sys2Proof.Machine

/-- NOP (R116): nothing; ERR is not cleared, RESULT not touched. -/
def execNop (s : State) : Host.Outcome State Fault Refusal := .next s

/-- BIND len (R117): a cursor at bit 0 over a datagram of `len` bytes, ERR and CAUSE cleared. -/
def execBind (len : BitVec 16) (s : State) : Host.Outcome State Fault Refusal :=
  .next (clearError (rewind { s with len := len }))

/-- READ n (R118): RESULT <- zext_32(Read(n)). With n > 32 it is an illegal command and nothing is read (log entry 12). -/
def execRead (n : BitVec 6) (s : State) : Host.Outcome State Fault Refusal :=
  if countLegal n then .next (setResult (peekBits n.toNat s) (skip n.toNat s))
  else .next (takeError .illegalCmd s)

/-- PEEK n (R119): RESULT <- zext_32(Peek(n)); it may refill but consumes nothing. With n > 32 as READ (log entry 12). -/
def execPeek (n : BitVec 6) (s : State) : Host.Outcome State Fault Refusal :=
  if countLegal n then .next (setResult (peekBits n.toNat s) (fill n.toNat s))
  else .next (takeError .illegalCmd s)

/-- ALIGN (R120): Skip(cnt mod 8); on a byte boundary nothing moves (R121). -/
def execAlign (s : State) : Host.Outcome State Fault Refusal := .next (skip (s.cnt.toNat % 8) s)

end Sys2Proof.Machine
end

