-- ==== Sys2Proof/Machine/Symbols.lean ====
section
/-! DEFINITION. The meanings of the eighteen bitstream symbols: what GETBLK does when it reads one (R160, R133 to R140,
R147 to R155). Each is the effect at the position where the symbol is read; which position that is, the machine's phase
says and Step decides (log entry 6). -/

namespace Sys2Proof.Machine

/-- DC (R160): 10 bits consumed, BLK[0] <- d QUANT[0]. -/
def execDc (d : BitVec 10) (s : State) : Host.Outcome State Fault Refusal := .next (dcSymbol tables d s)

/-- RUN0 (R133): `1`, no zero coefficient skipped. -/
def execRun0 (s : State) : Host.Outcome State Fault Refusal := .next (runSymbol (runEntry 1 0 0) s)

/-- RUN1 (R134): `01`, one zero coefficient skipped. -/
def execRun1 (s : State) : Host.Outcome State Fault Refusal := .next (runSymbol (runEntry 2 1 0) s)

/-- RUN2_3 (R135): `001x`. -/
def execRun2to3 (x : BitVec 1) (s : State) : Host.Outcome State Fault Refusal :=
  .next (runSymbol (runEntry 4 2 x.toNat) s)

/-- RUN4_7 (R136): `0001xx`. -/
def execRun4to7 (x : BitVec 2) (s : State) : Host.Outcome State Fault Refusal :=
  .next (runSymbol (runEntry 6 4 x.toNat) s)

/-- RUN8_15 (R137): `00001xxx`. -/
def execRun8to15 (x : BitVec 3) (s : State) : Host.Outcome State Fault Refusal :=
  .next (runSymbol (runEntry 8 8 x.toNat) s)

/-- RUN16_31 (R138): `000001xxxx`. -/
def execRun16to31 (x : BitVec 4) (s : State) : Host.Outcome State Fault Refusal :=
  .next (runSymbol (runEntry 10 16 x.toNat) s)

/-- RUN32_63 (R139): `0000001xxxxx`. -/
def execRun32to63 (x : BitVec 5) (s : State) : Host.Outcome State Fault Refusal :=
  .next (runSymbol (runEntry 12 32 x.toNat) s)

/-- RUN_INVALID (R140): BAD_RUN, none of the window consumed (R177). -/
def execRunInvalid (s : State) : Host.Outcome State Fault Refusal := .next (runSymbol invalidRunEntry s)

/-- LEV1 (R147): `1s`, the value +1 or -1. -/
def execLev1 (sgn : Bool) (s : State) : Host.Outcome State Fault Refusal :=
  .next (levSymbol tables (levEntry 2 1 0 sgn) s)

/-- EOB (R148): the block ends without error; the run before it is ignored (R174). -/
def execEob (s : State) : Host.Outcome State Fault Refusal := .next (levSymbol tables eobEntry s)

/-- LEV2_3 (R149): `001xs`. -/
def execLev2to3 (x : BitVec 1) (sgn : Bool) (s : State) : Host.Outcome State Fault Refusal :=
  .next (levSymbol tables (levEntry 5 2 x.toNat sgn) s)

/-- LEV4_7 (R150): `0001xxs`. -/
def execLev4to7 (x : BitVec 2) (sgn : Bool) (s : State) : Host.Outcome State Fault Refusal :=
  .next (levSymbol tables (levEntry 7 4 x.toNat sgn) s)

/-- LEV8_15 (R151): `00001xxxs`. -/
def execLev8to15 (x : BitVec 3) (sgn : Bool) (s : State) : Host.Outcome State Fault Refusal :=
  .next (levSymbol tables (levEntry 9 8 x.toNat sgn) s)

/-- LEV16_31 (R152): `000001xxxxs`. -/
def execLev16to31 (x : BitVec 4) (sgn : Bool) (s : State) : Host.Outcome State Fault Refusal :=
  .next (levSymbol tables (levEntry 11 16 x.toNat sgn) s)

/-- LEV32_63 (R153): `0000001xxxxxs`. -/
def execLev32to63 (x : BitVec 5) (sgn : Bool) (s : State) : Host.Outcome State Fault Refusal :=
  .next (levSymbol tables (levEntry 13 32 x.toNat sgn) s)

/-- LEV64_127 (R154): `00000001xxxxxxs`. -/
def execLev64to127 (x : BitVec 6) (sgn : Bool) (s : State) : Host.Outcome State Fault Refusal :=
  .next (levSymbol tables (levEntry 15 64 x.toNat sgn) s)

/-- LEV_INVALID (R155): BAD_LEVEL, none of the window consumed (R177). -/
def execLevInvalid (s : State) : Host.Outcome State Fault Refusal := .next (levSymbol tables invalidLevEntry s)

end Sys2Proof.Machine
end

