-- ==== Sys2Proof/Machine/Dispatch.lean ====
section
/-! DEFINITION. One arm per row of the opcode table. -/

namespace Sys2Proof.Machine

def exec (i : Instr) (s : State) : Host.Outcome State Fault Refusal :=
  match i with
  | .nop => Sys2Proof.Machine.execNop s
  | .bind len => Sys2Proof.Machine.execBind len s
  | .read n => Sys2Proof.Machine.execRead n s
  | .peek n => Sys2Proof.Machine.execPeek n s
  | .align => Sys2Proof.Machine.execAlign s
  | .getblk hc => Sys2Proof.Machine.execGetblk hc s
  | .dc d => Sys2Proof.Machine.execDc d s
  | .run0 => Sys2Proof.Machine.execRun0 s
  | .run1 => Sys2Proof.Machine.execRun1 s
  | .run2to3 x => Sys2Proof.Machine.execRun2to3 x s
  | .run4to7 x => Sys2Proof.Machine.execRun4to7 x s
  | .run8to15 x => Sys2Proof.Machine.execRun8to15 x s
  | .run16to31 x => Sys2Proof.Machine.execRun16to31 x s
  | .run32to63 x => Sys2Proof.Machine.execRun32to63 x s
  | .runInvalid => Sys2Proof.Machine.execRunInvalid s
  | .lev1 g => Sys2Proof.Machine.execLev1 g s
  | .eob => Sys2Proof.Machine.execEob s
  | .lev2to3 x g => Sys2Proof.Machine.execLev2to3 x g s
  | .lev4to7 x g => Sys2Proof.Machine.execLev4to7 x g s
  | .lev8to15 x g => Sys2Proof.Machine.execLev8to15 x g s
  | .lev16to31 x g => Sys2Proof.Machine.execLev16to31 x g s
  | .lev32to63 x g => Sys2Proof.Machine.execLev32to63 x g s
  | .lev64to127 x g => Sys2Proof.Machine.execLev64to127 x g s
  | .levInvalid => Sys2Proof.Machine.execLevInvalid s

end Sys2Proof.Machine
end

