-- ==== Sys2Proof/Machine/Configured.lean ====
section
/-! DEFINITION. Running what is fetched in a given configuration (R9, U10). A configuration is any `Config.Tables`; a
claim takes `tablesWf` of it, or the property it rests on, as a premise. In a configuration a run or level window is
the entry its table gives it; the classes of Instr are those of the default rules (R86, R87, 92 D12). -/

namespace Sys2Proof.Machine

/-- How a machine runs what is placed before it. -/
abbrev Runner := Placed → State → Host.Outcome State Fault Refusal

/-- Decode and run at the default tables. A command word that is no legal command takes ILLEGAL_CMD and is not executed
(R83, R194). -/
def runPlaced : Runner := fun p s =>
  match decode p with
  | .ok i => exec i s
  | .error _ => .next (takeError .illegalCmd s)

/-- A decoded command in the configuration T: of the commands only GETBLK looks at a table. A symbol is decoded from no
command word; it has its arm so that the match names every instruction. -/
def execCmdOver (T : Config.Tables) (i : Instr) (s : State) : Host.Outcome State Fault Refusal :=
  match i with
  | .getblk hc => execGetblkOver T hc s
  | .nop | .bind _ | .read _ | .peek _ | .align => exec i s
  | .dc _ | .run0 | .run1 | .run2to3 _ | .run4to7 _ | .run8to15 _ | .run16to31 _ | .run32to63 _ | .runInvalid
  | .lev1 _ | .eob | .lev2to3 _ _ | .lev4to7 _ _ | .lev8to15 _ _ | .lev16to31 _ _ | .lev32to63 _ _
  | .lev64to127 _ _ | .levInvalid => exec i s

/-- Decode and run in the configuration T: a window is the entry T gives it (R170, R173, R174). -/
def runPlacedOver (T : Config.Tables) : Runner := fun p s =>
  match p with
  | .cmd cw =>
    match decodeCmd cw with
    | .ok i => execCmdOver T i s
    | .error _ => .next (takeError .illegalCmd s)
  | .dc d => .next (dcSymbol T d s)
  | .run w => .next (runSymbol (T.runTab w) s)
  | .lev w => .next (levSymbol T (T.levTab w) s)

end Sys2Proof.Machine
end

