-- ==== Sys2Proof/Machine/Bus.lean ====
section
/-! DEFINITION. Fetching, and the host's actions (R6): what the machine reads next from the stream, the reset event,
the datagram write, accesses to the register map, and what a step makes of them, however what is placed is run. -/

namespace Sys2Proof.Machine

/-- The bits of the symbol the running GETBLK reads next, in the window of its position (R92); none when idle. -/
def fetchSymbol (s : State) : Option Placed :=
  match s.phase with
  | .idle => none
  | .dc => some (.dc (dcWindow s))
  | .run => some (.run (runWindow s))
  | .level => some (.lev (levWindow s))

/-- The reset event (R220): every value of R20's table; DGM and BLK keep what they hold (R221). A running command is
abandoned. The host's waiting actions and the last value read are no state of EDEC and stay. -/
def hostReset (s : State) : State :=
  endGetblk (clearError (rewind { s with len := 0, dconly := false, blkvalid := false, result := 0 }))

/-- HostWriteDgm(a, b) (R51): one byte, nothing else. -/
def hostWriteDgm (a : BitVec 16) (b : Byte) (s : State) : State := { s with dgm := memWrite s.dgm a.toNat b }

/-- HostReadReg(addr) (R37, R38): the value goes to the host, nothing else changes. -/
def hostReadReg (addr : BitVec 17) (s : State) : Host.Outcome State Fault Refusal :=
  if accessAligned addr then .next { s with rdata := readReg s addr } else .refused .unalignedRegister

/-- A bus write (R37, R38): in the DGM window the low byte is written (R43), at CMD the word is run as a command, and
a write anywhere else is ignored (log entry 14). -/
def hostWriteRegBy (run : Runner) (addr : BitVec 17) (data : Word) (s : State) : Host.Outcome State Fault Refusal :=
  if dgmWindow ≤ addr.toNat then
    .next (hostWriteDgm (BitVec.ofNat 16 (addr.toNat - dgmWindow)) (data.extractLsb' 0 8) s)
  else if accessAligned addr then if addr = 0 then run (.cmd data) s else .next s
  else .refused .unalignedRegister

/-- One host action (R6), a command word being run by `run`. -/
def hostActionBy (run : Runner) (a : HostAction) (s : State) : Host.Outcome State Fault Refusal :=
  match a with
  | .reset => .next (hostReset s)
  | .writeDgm a b => .next (hostWriteDgm a b s)
  | .cmd cw => run (.cmd cw) s
  | .readReg addr => hostReadReg addr s
  | .writeReg addr data => hostWriteRegBy run addr data s

/-- One host action at the default tables. -/
def hostAction (a : HostAction) (s : State) : Host.Outcome State Fault Refusal := hostActionBy runPlaced a s

/-- One host action in the configuration T. -/
def hostActionOver (T : Config.Tables) (a : HostAction) (s : State) : Host.Outcome State Fault Refusal :=
  hostActionBy (runPlacedOver T) a s

/-- The host's actions after a reset that waits first: rst is a pin of its own and does not wait for bus_ready (R43,
R220, log entry 8). -/
def resetWaiting (s : State) : Option (List HostAction) :=
  match s.inbox with
  | .reset :: rest => some rest
  | .writeDgm _ _ :: _ | .cmd _ :: _ | .readReg _ :: _ | .writeReg _ _ :: _ | [] => none

/-- What one step does. Between commands it takes the host's next action (R6), and with none waiting EDEC holds its state
(R209, log entry 9). While a GETBLK runs it reads that block's next symbol, unless a reset abandons it (R220); a state in
the middle of a GETBLK is never reached from a command, which runs to its end in one step (log entry 5). -/
def fetchAndRunBy (run : Runner) (s : State) : Host.Outcome State Fault Refusal :=
  match fetchSymbol s with
  | some p =>
    match resetWaiting s with
    | some rest => .next (hostReset { s with inbox := rest })
    | none => run p s
  | none =>
    match s.inbox with
    | [] => .next s
    | a :: rest => hostActionBy run a { s with inbox := rest }

/-- What one step does at the default tables. -/
def fetchAndRun (s : State) : Host.Outcome State Fault Refusal := fetchAndRunBy runPlaced s

/-- What one step does in the configuration T. -/
def fetchAndRunOver (T : Config.Tables) (s : State) : Host.Outcome State Fault Refusal :=
  fetchAndRunBy (runPlacedOver T) s

/-- A datagram that begins with the `width` bits of w, first bit most significant, at a cursor at bit 0, as the host
would write and bind it. -/
def placeWindow (width w : Nat) (s : State) : State :=
  let v := w * 2 ^ (16 - width)
  rewind { s with dgm := memWrite (memWrite s.dgm 0 (BitVec.ofNat 8 (v / 256))) 1 (BitVec.ofNat 8 v), len := 2 }

/-- No reset waits first. -/
def dropResets : List HostAction → List HostAction
  | .reset :: rest => dropResets rest
  | l => l

/-- The state whose next step runs exactly the instruction placed (log entry 13): a command word is the host's next
action; a symbol stands at the cursor of a GETBLK that reads it next, as the first pair's where it is of a pair. -/
def placeForFetch (p : Placed) (s : State) : State :=
  match p with
  | .cmd cw => { endGetblk s with inbox := .cmd cw :: s.inbox }
  | .dc w => { placeWindow 10 w.toNat s with phase := .dc, zz := 0, run := 0, inbox := dropResets s.inbox }
  | .run w => { placeWindow 12 w.toNat s with phase := .run, zz := 1, run := 0, inbox := dropResets s.inbox }
  | .lev w => { placeWindow 15 w.toNat s with phase := .level, zz := 1, run := 0, inbox := dropResets s.inbox }

end Sys2Proof.Machine
end

