-- ==== Sys2Proof/Machine/Step.lean ====
section
/-! DEFINITION. One step (R6), the machine in any configuration (R9), and where the host's table check places an
instruction. -/

namespace Sys2Proof.Machine

/-- One step: one host action, or one symbol of a GETBLK that runs; at the default tables (log entry 7). -/
def step (s : State) : Host.Outcome State Fault Refusal := fetchAndRun s

/-- One step in the configuration T (R9). -/
def stepOver (T : Config.Tables) (s : State) : Host.Outcome State Fault Refusal := fetchAndRunOver T s

/-- The machine in the configuration T (R9, U10). -/
def coreOver (T : Config.Tables) : Host.Core where
  State := State
  Fault := Fault
  Refusal := Refusal
  step := stepOver T
  reset := State.reset

/-- The state whose next step runs the opcode-table row's bits `w`, where they have a place (log entries 11, 13). -/
def State.withFetchWord (s : State) (nbits w : Nat) : State :=
  match placeTableWord nbits w with
  | none => s
  | some p => placeForFetch p s

end Sys2Proof.Machine
end

