-- ==== Sys2Proof/Safety.lean ====
section
/-! DEFINITION. The terms claims are stated in: the stream and the bit position (R26, R27, R54, R114), the machine's
invariant (R25 and what the status and the transient state keep to), and the blocks a stream spells (R95, R97, R98). -/

namespace Sys2Proof.Machine

-- The stream

/-- Z[k] (R54): bit 7 - k mod 8 of byte k div 8 as the engine sees it. -/
def streamBit (s : State) (k : Nat) : Bool := (dgmByte s (k / 8)).getLsbD (7 - k % 8)

/-- The number n stream bits from position p make, the earliest bit most significant (R54). -/
def streamVal (s : State) (p : Nat) : Nat → Nat
  | 0 => 0
  | n + 1 => streamVal s p n * 2 + (streamBit s (p + n)).toNat

/-- The cursor stands at bit position P (R26, R114): acc holds the cnt bits from P on, and the next refill supplies those
after them; past saturation of offset only their distance to P stays a whole number of words (R124). A host write to DGM
after BIND may end this (R67): it is the premise that the datagram is immutable (R225). -/
def AtPos (s : State) (P : Nat) : Prop :=
  s.acc.toNat = streamVal s P s.cnt.toNat ∧ s.offset.toNat % 4 = 0 ∧ s.offset.toNat ≤ Config.offsetSat ∧
    (8 * s.offset.toNat = P + s.cnt.toNat ∨
      (s.offset.toNat = Config.offsetSat ∧ 8 * Config.offsetSat ≤ P + s.cnt.toNat ∧ (P + s.cnt.toNat) % 32 = 0))

-- The invariant

/-- R25. -/
def CursorInv (s : State) : Prop :=
  s.acc.toNat < 2 ^ s.cnt.toNat ∧ s.offset.toNat % 4 = 0 ∧ s.offset.toNat ≤ Config.offsetSat

/-- CAUSE is 0 while ERR is clear and one of the four codes of R190 while it is set. -/
def StatusInv (s : State) : Prop :=
  if s.err then 1 ≤ s.cause.toNat ∧ s.cause.toNat ≤ 4 else s.cause = 0

/-- The transient state (R41): none between commands; i in 1..64 and a run in 0..63 while pairs are read, which only
happens with hc = 1 and BLKVALID = 0. -/
def PhaseInv (s : State) : Prop :=
  match s.phase with
  | .idle => s.zz = 0 ∧ s.run = 0
  | .dc => s.zz = 0 ∧ s.run = 0 ∧ s.blkvalid = false
  | .run => 1 ≤ s.zz ∧ s.zz ≤ 64 ∧ s.run = 0 ∧ s.blkvalid = false ∧ s.dconly = false
  | .level => 1 ≤ s.zz ∧ s.zz ≤ 64 ∧ s.run ≤ 63 ∧ s.blkvalid = false ∧ s.dconly = false

/-- The machine's invariant. -/
def MachineInv (s : State) : Prop := memWf s.dgm = true ∧ CursorInv s ∧ StatusInv s ∧ PhaseInv s

/-- k steps one after the other, of the machine whose one step is `one`. -/
def stepsBy (one : State → Host.Outcome State Fault Refusal) : Nat → State → Host.Outcome State Fault Refusal
  | 0, s => .next s
  | k + 1, s =>
    match one s with
    | .next t => stepsBy one k t
    | .fault r => .fault r
    | .refused r => .refused r

-- Legal command words, in the numbers of R80

/-- legal(cw) of R81, with R80's "legal when" column. -/
def LegalCmd (cw : Word) : Prop :=
  let op := cw.toNat / 2 ^ 28
  let rsv := cw.toNat / 2 ^ 16 % 2 ^ 12
  let arg := cw.toNat % 2 ^ 16
  rsv = 0 ∧ op ≤ 5 ∧ (op = 0 → arg = 0) ∧ (op = 2 → arg ≤ 32) ∧ (op = 3 → arg ≤ 32) ∧ (op = 4 → arg = 0) ∧
    (op = 5 → arg ≤ 1)

-- Reading a sequence of fields

/-- Read(n_1), Read(n_2), ... one after the other, their values concatenated into one number (R122). -/
def readFields : List Nat → State → Nat × State
  | [], s => (0, s)
  | n :: ns, s =>
    let r := readFields ns (skip n s)
    (peekBits n s * 2 ^ ns.sum + r.1, r.2)

-- Blocks in a stream

/-- The stream at P begins with the symbol's code. -/
def CodeAt (s : State) (P : Nat) (i : Instr) : Prop := streamVal s P (symbolCode i).1 = (symbolCode i).2

/-- The bits a list of (run, level) pairs takes (R97, R98). -/
def pairsLen : List (Nat × Int) → Nat
  | [] => 0
  | (r, v) :: ps => (symbolCode (runSymbolOf r)).1 + (symbolCode (levSymbolOf v)).1 + pairsLen ps

/-- The stream at P spells the pairs, each a run code and then a level code (R95). -/
def PairsAt (s : State) (P : Nat) : List (Nat × Int) → Prop
  | [] => True
  | (r, v) :: ps =>
    CodeAt s P (runSymbolOf r) ∧ CodeAt s (P + (symbolCode (runSymbolOf r)).1) (levSymbolOf v) ∧
      PairsAt s (P + ((symbolCode (runSymbolOf r)).1 + (symbolCode (levSymbolOf v)).1)) ps

/-- Every pair is one the codes express, and its value has a place in the block from zig-zag index i on (R176). -/
def PairsFit (i : Nat) : List (Nat × Int) → Prop
  | [] => True
  | (r, v) :: ps => v ≠ 0 ∧ v.natAbs ≤ 127 ∧ i + r ≤ 63 ∧ PairsFit (i + r + 1) ps

/-- The zig-zag index after the pairs. -/
def pairsEnd (i : Nat) : List (Nat × Int) → Nat
  | [] => i
  | (r, _) :: ps => pairsEnd (i + r + 1) ps

/-- The block with the pairs' coefficients placed from zig-zag index i on (R175, R161). -/
def placePairs (T : Config.Tables) (i : Nat) : List (Nat × Int) → Vector Word 64 → Vector Word 64
  | [], b => b
  | (r, v) :: ps, b =>
    let j := T.zigzag (Fin.ofNat 64 (i + r))
    placePairs T (i + r + 1) ps (b.set j.val (BitVec.ofInt 32 (v * (T.quant j).toNat)) j.isLt)

-- Blocks in a stream, in any configuration (R9)

/-- The run entry the configuration gives the window at P (R173). -/
def runAt (T : Config.Tables) (s : State) (P : Nat) : Config.RunEntry := T.runTab (BitVec.ofNat 12 (streamVal s P 12))

/-- The level entry the configuration gives the window at P (R173). -/
def levAt (T : Config.Tables) (s : State) (P : Nat) : Config.LevEntry := T.levTab (BitVec.ofNat 15 (streamVal s P 15))

/-- The bits a list of (run entry, level entry) pairs takes. -/
def entriesLen : List (Config.RunEntry × Config.LevEntry) → Nat
  | [] => 0
  | (e, f) :: ps => e.nbits + f.nbits + entriesLen ps

/-- The configuration reads the stream at P as these pairs, each with a value. -/
def EntriesAt (T : Config.Tables) (s : State) (P : Nat) : List (Config.RunEntry × Config.LevEntry) → Prop
  | [] => True
  | (e, f) :: ps =>
    runAt T s P = e ∧ e.valid = true ∧ levAt T s (P + e.nbits) = f ∧ f.valid = true ∧ f.eob = false ∧
      EntriesAt T s (P + (e.nbits + f.nbits)) ps

/-- The (run, level) pairs of the entries. -/
def pairsOf (ps : List (Config.RunEntry × Config.LevEntry)) : List (Nat × Int) :=
  ps.map fun p => (p.1.run, p.2.value)

/-- Every pair has a place in the block from zig-zag index i on (R176). -/
def RunsFit (i : Nat) : List (Nat × Int) → Prop
  | [] => True
  | (r, _) :: ps => i + r ≤ 63 ∧ RunsFit (i + r + 1) ps

/-- A block of zeros but for BLK[0] = d QUANT[0]. -/
def dcBlk (T : Config.Tables) (d : Nat) : Vector Word 64 :=
  (Vector.replicate 64 0).set 0 (BitVec.ofNat 32 (d * (T.quant 0).toNat))

/-- The state's cursor is that of t; everything else as in s. -/
def withCursor (s t : State) : State := { s with offset := t.offset, acc := t.acc, cnt := t.cnt }

/-- How GETBLK leaves the machine: the cursor of t, the given block, flags and error; no command running. -/
def afterGetblk (s t : State) (hc : Bool) (b : Vector Word 64) (valid err : Bool) (cause : BitVec 4) : State :=
  { withCursor s t with
    blk := b, dconly := !hc, blkvalid := valid, err := err, cause := cause, phase := .idle, zz := 0, run := 0 }

/-- A machine after a run code of n bits and run r (R173). -/
def afterRun (n r : Nat) (s : State) : State := { skip n (fill 12 s) with phase := .level, run := r }

/-- A machine after a level code of n bits and value v: stored at zig-zag index i + run, its natural position's quantiser
applied (R175, R161), or OVERRUN beyond index 63 with nothing stored (R176). -/
def afterLevel (n : Nat) (v : Int) (s : State) : State :=
  if s.zz + s.run ≤ 63 then
    let j := tables.zigzag (Fin.ofNat 64 (s.zz + s.run))
    { skip n (fill 15 s) with
      blk := s.blk.set j.val (BitVec.ofInt 32 (v * (tables.quant j).toNat)) j.isLt
      phase := .run, zz := s.zz + s.run + 1, run := 0 }
  else { skip n (fill 15 s) with err := true, cause := 1, phase := .idle, zz := 0, run := 0 }

/-- The value a sign bit and a magnitude stand for (R89). -/
def signed (m : Nat) (s : Bool) : Int := if s then -m else m

/-- Two cursors over the same datagram, which may hold different numbers of fetched bits (R42). -/
def SameDatagram (s t : State) : Prop := s.dgm = t.dgm ∧ s.len = t.len

end Sys2Proof.Machine
end

