-- ==== Sys2Proof/Certificates/Slice0/Obligations.lean ====
section
/-! DEFINITION. The statements for the provers, family by family; each docstring says which rules of spec/ it states. -/

open Sys2Proof Sys2Proof.Machine

-- Encoding

/-- Words written out from R80, R86 and R87 decode to the instructions they stand for. -/
def Obligations.SpecWordsDecode : Prop :=
  decodeCmd 0x00000000 = .ok .nop ∧ decodeCmd 0x10000006 = .ok (.bind 6) ∧ decodeCmd 0x20000020 = .ok (.read 32) ∧
  decodeCmd 0x3000000C = .ok (.peek 12) ∧ decodeCmd 0x40000000 = .ok .align ∧ decodeCmd 0x50000001 = .ok (.getblk true) ∧
  decode (.dc 0b0001100100#10) = .ok (.dc 100) ∧ decodeRun 0b0001_10_111111#12 = .run4to7 2 ∧
  decodeRun 0b0000000_11111#12 = .runInvalid ∧ decodeLev 0b0001_01_0_11111111#15 = .lev4to7 1 false ∧
  decodeLev 0b01_1111111111111#15 = .eob ∧ decodeLev 0b00000000_1111111#15 = .levInvalid

/-- Every well-formed instruction, with every operand and whatever bits follow a symbol's pattern in its window, is
what the decoder reads from its encoding (R80 to R89). -/
def Obligations.DecodeEncodeRoundTrip : Prop :=
  ∀ (i : Instr) (tail : Nat), i.wellFormed = true → decode (encode i tail) = .ok i

/-- R81: op is looked at first, then rsv, then arg; a legal word is exactly one command, whose one word it is, and
executes it; every other word is refused by the decoder. -/
def Obligations.CommandDecodeAcceptsExactlyLegalWords : Prop :=
  ∀ cw : Word,
    (5 < cw.toNat / 2 ^ 28 → decodeCmd cw = .error .reservedOp) ∧
    (cw.toNat / 2 ^ 28 ≤ 5 → cw.toNat / 2 ^ 16 % 2 ^ 12 ≠ 0 → decodeCmd cw = .error .reservedBits) ∧
    (LegalCmd cw → ∃ i : Instr, decodeCmd cw = .ok i ∧ i.wellFormed = true ∧ (∀ tail, encode i tail = .cmd cw) ∧
      ∀ s, hostAction (.cmd cw) s = exec i s) ∧
    (¬LegalCmd cw → ∃ r, decodeCmd cw = .error r)

/-- R194: a word that is no legal command changes nothing but ERR and CAUSE = 4. -/
def Obligations.IllegalCommandSetsErrAndCauseOnly : Prop :=
  ∀ (cw : Word) (s : State), ¬LegalCmd cw → hostAction (.cmd cw) s = .next { s with err := true, cause := 4 }

/-- The default RUNTAB (log entry 7) is RunRule at all 4096 windows, and so are the run classes of the decoder (R141, R132,
R133 to R140). -/
def Obligations.RunTableIsItsClasses : Prop :=
  ∀ w : BitVec 12, tables.runTab w = runRule w ∧ runEntryOf (decodeRun w) = some (runRule w)

/-- The default LEVTAB (log entry 7) is LevRule at all 32768 windows, and so are the level classes of the decoder (R156,
R146, R147 to R155). -/
def Obligations.LevelTableIsItsClasses : Prop :=
  ∀ w : BitVec 15, tables.levTab w = levRule w ∧ levEntryOf (decodeLev w) = some (levRule w)

/-- The default tables (log entry 7) have the shape R131, R145 and R157 ask for. -/
def Obligations.DefaultTablesAreWellFormed : Prop := tablesWf tables

/-- In the default tables (log entry 7) every window that begins with EncRun(r) or EncLev(v) has the entry of that run or
value (R163). -/
def Obligations.TablesInvertTheEncoders : Prop :=
  (∀ (r : Nat) (w : BitVec 12), r ≤ 63 →
    w.toNat / 2 ^ (12 - (symbolCode (runSymbolOf r)).1) = (symbolCode (runSymbolOf r)).2 →
    tables.runTab w = ⟨true, (symbolCode (runSymbolOf r)).1, r⟩) ∧
  (∀ (v : Int) (w : BitVec 15), v ≠ 0 → v.natAbs ≤ 127 →
    w.toNat / 2 ^ (15 - (symbolCode (levSymbolOf v)).1) = (symbolCode (levSymbolOf v)).2 →
    tables.levTab w = ⟨true, (symbolCode (levSymbolOf v)).1, v, false⟩)

/-- The default QUANT by row and column (R159), and the default ZIGZAG whole (R157) (log entry 7): its 64 entries as the
rule lists them; and in closed form, the anti-diagonals row + column = 0, 1, .., 14 one after the other, an odd one
downwards and an even one upwards. -/
def Obligations.DefaultScanAndQuantiser : Prop :=
  (∀ r c : Fin 8, (tables.quant (Fin.ofNat 64 (8 * r.val + c.val))).toNat = 3 + 2 * (r.val + c.val)) ∧
  (List.finRange 64).map (fun i => (tables.zigzag i).val) =
    [0, 1, 8, 16, 9, 2, 3, 10, 17, 24, 32, 25, 18, 11, 4, 5,
      12, 19, 26, 33, 40, 48, 41, 34, 27, 20, 13, 6, 7, 14, 21, 28,
      35, 42, 49, 56, 57, 50, 43, 36, 29, 22, 15, 23, 30, 37, 44, 51,
      58, 59, 52, 45, 38, 31, 39, 46, 53, 60, 61, 54, 47, 55, 62, 63] ∧
  ∀ i j : Fin 64, i < j →
    let p := (tables.zigzag i).val
    let q := (tables.zigzag j).val
    p / 8 + p % 8 < q / 8 + q % 8 ∨
      p / 8 + p % 8 = q / 8 + q % 8 ∧ if (p / 8 + p % 8) % 2 = 1 then p / 8 < q / 8 else q / 8 < p / 8

/-- The dequantising multiply is the exact product for every DC value, level and quantiser, within R162's bounds, and
negating the level negates it. -/
def Obligations.DequantisingIsExact : Prop :=
  ∀ q : BitVec 8,
    (∀ d : BitVec 10, (dequant d.toNat q).toInt = (d.toNat : Int) * q.toNat ∧ (d.toNat : Int) * q.toNat ≤ 260865) ∧
    (∀ v : Int, -127 ≤ v → v ≤ 127 → (dequant v q).toInt = v * q.toNat ∧ (dequant v q).toInt ≤ 32385 ∧
      -32385 ≤ (dequant v q).toInt ∧ (dequant (-v) q).toInt = -(dequant v q).toInt)

-- Memory and the cursor

/-- R52: below len the engine sees DGM, at and beyond it 0x00 whatever DGM holds. -/
def Obligations.EngineSeesDatagramBelowLen : Prop :=
  ∀ (s : State) (a : Nat),
    (a < s.len.toNat → dgmByte s a = dgmCell s a ∧ ∀ b, memLookup s.dgm a = some b → dgmByte s a = b) ∧
    (s.len.toNat ≤ a → dgmByte s a = 0 ∧ ∀ m : Memory, dgmByte { s with dgm := m } a = 0)

/-- The accumulator holds every bit fetched: a refill only happens with at most 31 bits in it, appends its word to them
without loss, and the cursor invariant of R25 is kept by every Peek and Read (R110, R115). -/
def Obligations.AccumulatorLosesNoBit : Prop :=
  ∀ (s : State) (n : Nat), n ≤ 32 → CursorInv s →
    CursorInv (fill n s) ∧ CursorInv (skip n s) ∧
    (s.cnt.toNat < n → s.cnt.toNat ≤ 31 ∧ (fill n s).cnt.toNat = s.cnt.toNat + 32 ∧
      (fill n s).acc.toNat = s.acc.toNat * 2 ^ 32 + memRead4 s s.offset.toNat ∧
      (fill n s).offset.toNat = min (s.offset.toNat + 4) Config.offsetSat)

/-- At position P, Peek(n) returns the stream's next n bits and stays at P; Read(n) returns them and moves to
P + n; BIND and reset stand at 0 (R114, derived in the spec from R110 to R112 and R52 to R55). -/
def Obligations.CursorFollowsTheStream : Prop :=
  (∀ (s : State) (P n : Nat), AtPos s P → n ≤ 32 →
    peekBits n s = streamVal s P n ∧ AtPos (fill n s) P ∧ AtPos (skip n s) (P + n)) ∧
  (∀ (s : State) (L : BitVec 16), ∃ t, exec (.bind L) s = .next t ∧ AtPos t 0) ∧
  (∀ s : State, AtPos (hostReset s) 0) ∧ AtPos State.reset 0

/-- R122: any sequence of reads, concatenated, gives the stream's bits in order. -/
def Obligations.FieldsReassembleTheStream : Prop :=
  ∀ (s : State) (P : Nat) (ns : List Nat), AtPos s P → (∀ n ∈ ns, n ≤ 32) →
    (readFields ns s).1 = streamVal s P ns.sum ∧ AtPos (readFields ns s).2 (P + ns.sum)

/-- Once offset is at or beyond len, what Peek and Read return and leave does not depend on it, but for offset itself;
and P mod 8 = (-cnt) mod 8 holds at every position, saturated or not (R124). -/
def Obligations.SaturatedOffsetChangesNoOutput : Prop :=
  (∀ (s : State) (o : BitVec 18) (n : Nat), s.len.toNat ≤ s.offset.toNat → s.len.toNat ≤ o.toNat →
    peekBits n { s with offset := o } = peekBits n s ∧
    skip n { s with offset := o } = { skip n s with offset := (skip n { s with offset := o }).offset }) ∧
  (∀ (s : State) (P : Nat), AtPos s P → (P + s.cnt.toNat) % 8 = 0)

/-- Reading at or beyond the end of the datagram is no error: it returns zeros and sets no flag (R123). -/
def Obligations.ReadingPastTheEndGivesZeros : Prop :=
  ∀ (s : State) (P : Nat) (n : BitVec 6), AtPos s P → 8 * s.len.toNat ≤ P → n.toNat ≤ 32 →
    ∃ t, exec (.read n) s = .next t ∧ t.result = 0 ∧ t.err = s.err ∧ t.cause = s.cause ∧ AtPos t (P + n.toNat)

/-- A host write to an address already refilled is not seen: the bits fetched stay as they were and are what is read,
while a later refill sees the new byte (R67). -/
def Obligations.HostWriteAfterRefillIsNotSeen : Prop :=
  ∀ (s : State) (a : BitVec 16) (b : Byte),
    (∀ n : BitVec 6, n.toNat ≤ s.cnt.toNat → n.toNat ≤ 32 →
      ∃ t u, exec (.read n) s = .next t ∧ exec (.read n) (hostWriteDgm a b s) = .next u ∧ u = hostWriteDgm a b t) ∧
    (a.toNat < s.len.toNat → dgmByte (hostWriteDgm a b s) a.toNat = b) ∧
    (∀ k, k ≠ a.toNat → dgmByte (hostWriteDgm a b s) k = dgmByte s k)

-- The cursor commands

/-- R116: NOP changes nothing; its one word is 0; any other word with op 0 is illegal. -/
def Obligations.NopChangesNothing : Prop :=
  ∀ s : State, exec .nop s = .next s ∧ hostAction (.cmd 0) s = .next s ∧
    ∀ cw : Word, cw.toNat / 2 ^ 28 = 0 → cw ≠ 0 → hostAction (.cmd cw) s = .next { s with err := true, cause := 4 }

/-- R117: BIND sets len, the cursor to 0 and clears ERR and CAUSE, whatever the state, and leaves the rest; a word with
op 1 is BIND of its low 16 bits when rsv = 0 and illegal otherwise; after it the position is 0. -/
def Obligations.BindStartsADatagram : Prop :=
  ∀ s : State,
    (∀ L : BitVec 16, exec (.bind L) s =
      .next { s with len := L, offset := 0, acc := 0, cnt := 0, err := false, cause := 0 }) ∧
    (∀ L : BitVec 16, ∀ t, exec (.bind L) s = .next t → AtPos t 0) ∧
    (∀ cw : Word, cw.toNat / 2 ^ 28 = 1 → cw.toNat / 2 ^ 16 % 2 ^ 12 = 0 →
      hostAction (.cmd cw) s = exec (.bind (BitVec.ofNat 16 cw.toNat)) s) ∧
    (∀ cw : Word, cw.toNat / 2 ^ 28 = 1 → cw.toNat / 2 ^ 16 % 2 ^ 12 ≠ 0 →
      hostAction (.cmd cw) s = .next { s with err := true, cause := 4 })

/-- READ n in any state: with n bits fetched they are taken from the top of acc; with fewer, after one refill. Only
RESULT and the cursor change (R118, R112). -/
def Obligations.ReadTakesBitsFromTheAccumulator : Prop :=
  ∀ (s : State) (n : BitVec 6), n.toNat ≤ 32 →
    ∃ t, exec (.read n) s = .next t ∧ t = { withCursor s t with result := t.result } ∧
      (n.toNat ≤ s.cnt.toNat →
        t.result.toNat = s.acc.toNat / 2 ^ (s.cnt.toNat - n.toNat) % 2 ^ n.toNat ∧ t.offset = s.offset ∧
        t.cnt.toNat = s.cnt.toNat - n.toNat ∧ t.acc.toNat = s.acc.toNat % 2 ^ t.cnt.toNat) ∧
      (s.cnt.toNat < n.toNat →
        t.result.toNat = (s.acc.toNat * 2 ^ 32 + memRead4 s s.offset.toNat) % 2 ^ 64 / 2 ^ t.cnt.toNat % 2 ^ n.toNat ∧
        t.offset.toNat = min (s.offset.toNat + 4) 131072 ∧ t.cnt.toNat = s.cnt.toNat + 32 - n.toNat ∧
        t.acc.toNat = (s.acc.toNat * 2 ^ 32 + memRead4 s s.offset.toNat) % 2 ^ t.cnt.toNat)

/-- READ n at position P returns the stream's n bits from P and moves to P + n (R118). -/
def Obligations.ReadReturnsStreamBits : Prop :=
  ∀ (s : State) (P : Nat) (n : BitVec 6), AtPos s P → n.toNat ≤ 32 →
    ∃ t, exec (.read n) s = .next t ∧ t.result.toNat = streamVal s P n.toNat ∧ AtPos t (P + n.toNat) ∧
      t = { withCursor s t with result := t.result }

/-- PEEK n completes in any state, changing only RESULT and, by a refill, the cursor; it stays at its position and
returns the stream's bits; a second PEEK changes nothing and a READ after it returns the same value (R119). -/
def Obligations.PeekLooksWithoutConsuming : Prop :=
  ∀ (s : State) (n : BitVec 6), n.toNat ≤ 32 →
    ∃ t, exec (.peek n) s = .next t ∧ t = { withCursor s t with result := t.result } ∧
      (∀ P, AtPos s P → AtPos t P ∧ t.result.toNat = streamVal s P n.toNat) ∧
      exec (.peek n) t = .next t ∧ (∃ u, exec (.read n) t = .next u ∧ u.result = t.result) ∧
      (∃ u, exec (.read n) s = .next u ∧ u.result = t.result)

/-- READ and PEEK of more than 32 bits read nothing and are illegal commands (R118, R119; as instructions, log entry 12). -/
def Obligations.CountsAbove32ReadNothing : Prop :=
  ∀ (s : State) (n : BitVec 6), 32 < n.toNat →
    exec (.read n) s = .next { s with err := true, cause := 4 } ∧
    exec (.peek n) s = .next { s with err := true, cause := 4 }

/-- ALIGN skips cnt mod 8 bits without a refill, changing nothing else, which takes it from position P to the next
multiple of 8 (R120). -/
def Obligations.AlignMovesToByteBoundary : Prop :=
  ∀ s : State, ∃ t, exec .align s = .next t ∧ t = withCursor s t ∧ t.offset = s.offset ∧
    t.cnt.toNat = s.cnt.toNat - s.cnt.toNat % 8 ∧ t.acc.toNat = s.acc.toNat % 2 ^ t.cnt.toNat ∧
    ∀ P, AtPos s P → AtPos t ((P + 7) / 8 * 8)

/-- ALIGN at a multiple of 8 moves nothing, nor right after BIND or reset, nor a second time in a row (R121, derived in
the spec from R120). -/
def Obligations.AlignOnBoundaryMovesNothing : Prop :=
  (∀ (s : State) (P : Nat), AtPos s P → P % 8 = 0 → exec .align s = .next s) ∧
  (∀ (s : State) (L : BitVec 16), ∃ t, exec (.bind L) s = .next t ∧ exec .align t = .next t) ∧
  (∀ s : State, exec .align (hostReset s) = .next (hostReset s)) ∧
  (∀ s : State, ∃ t, exec .align s = .next t ∧ exec .align t = .next t)

-- GETBLK

/-- GETBLK 0 completes in any state: BLK is zero but for the DC coefficient, DCONLY = BLKVALID = 1, ERR and CAUSE stay,
10 bits are consumed and no refill happens when they are there (R172; QUANT[0] of the default tables, log entry 7). -/
def Obligations.DcOnlyBlockCompletes : Prop :=
  ∀ s : State, ∃ t, exec (.getblk false) s = .next t ∧
    t = afterGetblk s t false (dcBlk tables (peekBits 10 s)) true s.err s.cause ∧
    (10 ≤ s.cnt.toNat → t.offset = s.offset) ∧
    ∀ P, AtPos s P → AtPos t (P + 10) ∧ t.blk = dcBlk tables (streamVal s P 10)

/-- GETBLK 1 at a block the stream spells (a DC field, pairs that fit, a run code, the end-of-block code) gives exactly
that block, dequantised and in natural order, and stands right after the end-of-block code. The final run may be any
(R95, R170, R174, R175; default tables, log entry 7). -/
def Obligations.GetblkDecodesTheBlockTheStreamSpells : Prop :=
  ∀ (s : State) (P : Nat) (ps : List (Nat × Int)) (r : Nat), AtPos s P → PairsFit 1 ps → PairsAt s (P + 10) ps →
    r ≤ 63 → CodeAt s (P + 10 + pairsLen ps) (runSymbolOf r) →
    CodeAt s (P + 10 + pairsLen ps + (symbolCode (runSymbolOf r)).1) .eob →
    ∃ t, exec (.getblk true) s = .next t ∧
      t = afterGetblk s t true (placePairs tables 1 ps (dcBlk tables (streamVal s P 10))) true s.err s.cause ∧
      AtPos t (P + 10 + pairsLen ps + (symbolCode (runSymbolOf r)).1 + 2)

/-- After pairs that fit, a pair with a value whose index would pass 63 raises OVERRUN: both codes consumed, nothing
stored for it, the earlier coefficients kept, BLKVALID = 0 (R176, R184, R191; default tables, log entry 7). -/
def Obligations.OverrunningPairRaisesOverrun : Prop :=
  ∀ (s : State) (P : Nat) (ps : List (Nat × Int)) (r : Nat) (v : Int), AtPos s P → PairsFit 1 ps →
    PairsAt s (P + 10) ps → r ≤ 63 → v ≠ 0 → v.natAbs ≤ 127 → 63 < pairsEnd 1 ps + r →
    CodeAt s (P + 10 + pairsLen ps) (runSymbolOf r) →
    CodeAt s (P + 10 + pairsLen ps + (symbolCode (runSymbolOf r)).1) (levSymbolOf v) →
    ∃ t, exec (.getblk true) s = .next t ∧
      t = afterGetblk s t true (placePairs tables 1 ps (dcBlk tables (streamVal s P 10))) false true 1 ∧
      AtPos t (P + 10 + pairsLen ps + (symbolCode (runSymbolOf r)).1 + (symbolCode (levSymbolOf v)).1)

/-- After pairs that fit, a 12-bit window below 32 raises BAD_RUN with nothing of it consumed (R177, R184, R192;
default tables, log entry 7). -/
def Obligations.InvalidRunWindowRaisesBadRun : Prop :=
  ∀ (s : State) (P : Nat) (ps : List (Nat × Int)), AtPos s P → PairsFit 1 ps → PairsAt s (P + 10) ps →
    streamVal s (P + 10 + pairsLen ps) 12 < 32 →
    ∃ t, exec (.getblk true) s = .next t ∧
      t = afterGetblk s t true (placePairs tables 1 ps (dcBlk tables (streamVal s P 10))) false true 2 ∧
      AtPos t (P + 10 + pairsLen ps)

/-- After pairs that fit and a run code, a 15-bit window below 128 raises BAD_LEVEL with the run code consumed and the
window not, whether or not the run alone would overrun (R177, R193, R198; default tables, log entry 7). -/
def Obligations.InvalidLevelWindowRaisesBadLevel : Prop :=
  ∀ (s : State) (P : Nat) (ps : List (Nat × Int)) (r : Nat), AtPos s P → PairsFit 1 ps → PairsAt s (P + 10) ps →
    r ≤ 63 → CodeAt s (P + 10 + pairsLen ps) (runSymbolOf r) →
    streamVal s (P + 10 + pairsLen ps + (symbolCode (runSymbolOf r)).1) 15 < 128 →
    ∃ t, exec (.getblk true) s = .next t ∧
      t = afterGetblk s t true (placePairs tables 1 ps (dcBlk tables (streamVal s P 10))) false true 3 ∧
      AtPos t (P + 10 + pairsLen ps + (symbolCode (runSymbolOf r)).1)

/-- GETBLK ends for every stream, every state and every contents of the tables, with nothing left of its transient
state (R179, R233, R41; how that state is held is log entry 5). -/
def Obligations.GetblkAlwaysEnds : Prop :=
  (∀ (T : Config.Tables) (hc : Bool) (s : State),
    (getblk T hc s).phase = .idle ∧ (getblk T hc s).zz = 0 ∧ (getblk T hc s).run = 0) ∧
  (∀ (hc : Bool) (s : State), ∃ t, exec (.getblk hc) s = .next t ∧ t.phase = .idle)

/-- GETBLK changes only the cursor, BLK, DCONLY and BLKVALID, and ERR and CAUSE on error. It ends without error, with
BLKVALID = 1 and ERR and CAUSE as they were, or, only with hc = 1, with BLKVALID = 0, ERR = 1 and CAUSE 1, 2 or 3
(R170, R34, R35, R196). So in every configuration (R9). -/
def Obligations.GetblkOutcomeAndFrame : Prop :=
  ∀ (s : State) (hc : Bool),
    (∃ t, exec (.getblk hc) s = .next t ∧
      (t = afterGetblk s t hc t.blk true s.err s.cause ∨
        (hc = true ∧ ∃ c : BitVec 4, 1 ≤ c.toNat ∧ c.toNat ≤ 3 ∧ t = afterGetblk s t hc t.blk false true c))) ∧
    ∀ T : Config.Tables, ∃ t, execCmdOver T (.getblk hc) s = .next t ∧
      (t = afterGetblk s t hc t.blk true s.err s.cause ∨
        (hc = true ∧ ∃ c : BitVec 4, 1 ≤ c.toNat ∧ c.toNat ≤ 3 ∧ t = afterGetblk s t hc t.blk false true c))

/-- What BLK held before a GETBLK does not matter to anything it leaves, error or not, in any configuration (R171). -/
def Obligations.GetblkForgetsTheOldBlock : Prop :=
  ∀ (s : State) (b : Vector Word 64) (hc : Bool), exec (.getblk hc) { s with blk := b } = exec (.getblk hc) s ∧
    ∀ T, execCmdOver T (.getblk hc) { s with blk := b } = execCmdOver T (.getblk hc) s

/-- With any well-formed tables every coefficient GETBLK leaves is a DC value times QUANT[0] or a level in -127..127
times its position's quantiser, error or not; with the default tables BLK[0] is in 0..3069 and the others within 3937
(R162, R182; the default tables, log entry 7). -/
def Obligations.CoefficientsAreInRange : Prop :=
  (∀ T : Config.Tables, tablesWf T → ∀ (hc : Bool) (s : State),
    (∃ d : Nat, d ≤ 1023 ∧ ((getblk T hc s).blk[(0 : Fin 64)]).toInt = (d : Int) * (T.quant 0).toNat) ∧
    ∀ p : Fin 64, p ≠ 0 → ∃ v : Int, -127 ≤ v ∧ v ≤ 127 ∧ ((getblk T hc s).blk[p]).toInt = v * (T.quant p).toNat) ∧
  (∀ (hc : Bool) (s : State), ∃ t, exec (.getblk hc) s = .next t ∧
    0 ≤ (t.blk[(0 : Fin 64)]).toInt ∧ (t.blk[(0 : Fin 64)]).toInt ≤ 3069 ∧
    ∀ p : Fin 64, p ≠ 0 → -3937 ≤ (t.blk[p]).toInt ∧ (t.blk[p]).toInt ≤ 3937)

/-- In every well-formed configuration GETBLK consumes 10 bits with hc = 0 and 10 to 1738 with hc = 1; at the default
tables (log entry 7) at least 13 when it succeeds with hc = 1 (R180). -/
def Obligations.GetblkConsumesBoundedBits : Prop :=
  ∀ (s : State) (P : Nat) (hc : Bool), AtPos s P →
    (∃ t Q, exec (.getblk hc) s = .next t ∧ AtPos t Q ∧ P + 10 ≤ Q ∧ Q ≤ P + 1738 ∧ (hc = false → Q = P + 10) ∧
      (hc = true → t.blkvalid = true → P + 13 ≤ Q)) ∧
    ∀ T, tablesWf T → ∃ t Q, execCmdOver T (.getblk hc) s = .next t ∧ AtPos t Q ∧ P + 10 ≤ Q ∧ Q ≤ P + 1738 ∧
      (hc = false → Q = P + 10)

/-- Two cursors at one position of one datagram, however many bits each has fetched and whatever else their states hold,
return the same bits from READ and PEEK and decode the same block with the same outcome, in every well-formed
configuration, and stand at one position again (R42). -/
def Obligations.OutputsDependOnlyOnTheStream : Prop :=
  ∀ (s u : State) (P : Nat), AtPos s P → AtPos u P → SameDatagram s u →
    (∀ n : BitVec 6, n.toNat ≤ 32 → ∃ t v, exec (.read n) s = .next t ∧ exec (.read n) u = .next v ∧
      t.result = v.result ∧ AtPos t (P + n.toNat) ∧ AtPos v (P + n.toNat)) ∧
    (∀ n : BitVec 6, n.toNat ≤ 32 → ∃ t v, exec (.peek n) s = .next t ∧ exec (.peek n) u = .next v ∧
      t.result = v.result ∧ AtPos t P ∧ AtPos v P) ∧
    (∃ t v Q, exec .align s = .next t ∧ exec .align u = .next v ∧ AtPos t Q ∧ AtPos v Q) ∧
    (∀ hc, ∃ t v Q, exec (.getblk hc) s = .next t ∧ exec (.getblk hc) u = .next v ∧ t.blk = v.blk ∧
      t.blkvalid = v.blkvalid ∧ t.dconly = v.dconly ∧ (t.blkvalid = false → t.cause = v.cause) ∧ AtPos t Q ∧ AtPos v Q) ∧
    (∀ T, tablesWf T → ∀ hc, ∃ t v Q, execCmdOver T (.getblk hc) s = .next t ∧ execCmdOver T (.getblk hc) u = .next v ∧
      t.blk = v.blk ∧ t.blkvalid = v.blkvalid ∧ t.dconly = v.dconly ∧ (t.blkvalid = false → t.cause = v.cause) ∧
      AtPos t Q ∧ AtPos v Q)

/-- GETBLK is what its symbols do one after the other: from its start, at most 129 symbol steps of the machine with no
host action waiting give the state the command gives in one step, at the default tables and in any other configuration
(R6, R9, R92, R170, R173; the symbol steps are the model's own, log entries 5 and 6). -/
def Obligations.GetblkIsItsSymbolSteps : Prop :=
  ∀ (s : State) (hc : Bool), s.inbox = [] →
    (∃ t k, exec (.getblk hc) s = .next t ∧ k ≤ 129 ∧ stepsBy step k (startGetblk hc s) = .next t) ∧
    ∀ T, ∃ t k, execCmdOver T (.getblk hc) s = .next t ∧ k ≤ 129 ∧ stepsBy (stepOver T) k (startGetblk hc s) = .next t

-- The symbols

/-- The DC field in any state: 10 bits consumed, BLK[0] = d QUANT[0]; with hc = 1 (DCONLY = 0) the first pair follows
with i = 1, else the block ends without error (R160, R172; symbol steps of their own are log entries 5 and 6, QUANT[0] = 3
is log entry 7). -/
def Obligations.DcSymbolCompletes : Prop :=
  ∀ (s : State) (d : BitVec 10),
    (s.dconly = false → exec (.dc d) s =
      .next { skip 10 s with blk := s.blk.set 0 (BitVec.ofNat 32 (3 * d.toNat)), phase := .run, zz := 1, run := 0 }) ∧
    (s.dconly = true → exec (.dc d) s =
      .next { skip 10 s with
        blk := s.blk.set 0 (BitVec.ofNat 32 (3 * d.toNat)), blkvalid := true, phase := .idle, zz := 0, run := 0 })

/-- Each run code in any state: its window is looked at, its length consumed, its run kept for the level code; nothing
else changes, and from position P the cursor goes to P plus the length (R133 to R139, R173; log entries 5 and 6). -/
def Obligations.RunSymbolsComplete : Prop :=
  ∀ s : State,
    exec .run0 s = .next (afterRun 1 0 s) ∧ exec .run1 s = .next (afterRun 2 1 s) ∧
    (∀ x : BitVec 1, exec (.run2to3 x) s = .next (afterRun 4 (2 + x.toNat) s)) ∧
    (∀ x : BitVec 2, exec (.run4to7 x) s = .next (afterRun 6 (4 + x.toNat) s)) ∧
    (∀ x : BitVec 3, exec (.run8to15 x) s = .next (afterRun 8 (8 + x.toNat) s)) ∧
    (∀ x : BitVec 4, exec (.run16to31 x) s = .next (afterRun 10 (16 + x.toNat) s)) ∧
    (∀ x : BitVec 5, exec (.run32to63 x) s = .next (afterRun 12 (32 + x.toNat) s)) ∧
    ∀ n r, afterRun n r s = { withCursor s (afterRun n r s) with phase := .level, run := r } ∧
      ∀ P, n ≤ 12 → AtPos s P → AtPos (afterRun n r s) (P + n)

/-- Each level code with a value in any state: its length consumed, and the value stored at its place, times that
place's quantiser, or OVERRUN when the place is beyond 63; nothing else changes, and from position P the cursor goes to
P plus the length either way (R147, R149 to R154, R161, R175, R176; log entries 5, 6 and 7). -/
def Obligations.LevelSymbolsComplete : Prop :=
  ∀ (s : State) (g : Bool),
    exec (.lev1 g) s = .next (afterLevel 2 (signed 1 g) s) ∧
    (∀ x : BitVec 1, exec (.lev2to3 x g) s = .next (afterLevel 5 (signed (2 + x.toNat) g) s)) ∧
    (∀ x : BitVec 2, exec (.lev4to7 x g) s = .next (afterLevel 7 (signed (4 + x.toNat) g) s)) ∧
    (∀ x : BitVec 3, exec (.lev8to15 x g) s = .next (afterLevel 9 (signed (8 + x.toNat) g) s)) ∧
    (∀ x : BitVec 4, exec (.lev16to31 x g) s = .next (afterLevel 11 (signed (16 + x.toNat) g) s)) ∧
    (∀ x : BitVec 5, exec (.lev32to63 x g) s = .next (afterLevel 13 (signed (32 + x.toNat) g) s)) ∧
    (∀ x : BitVec 6, exec (.lev64to127 x g) s = .next (afterLevel 15 (signed (64 + x.toNat) g) s)) ∧
    ∀ (n : Nat) (v : Int) (P : Nat), n ≤ 15 → AtPos s P → AtPos (afterLevel n v s) (P + n)

/-- The end-of-block code in any state, whatever run stands before it: 2 bits consumed, BLKVALID = 1, the command over,
nothing else changed (R148, R174; log entries 5 and 6). -/
def Obligations.EobSymbolEndsTheBlock : Prop :=
  ∀ s : State, ∃ t, exec .eob s = .next t ∧
    t = { withCursor s t with blkvalid := true, phase := .idle, zz := 0, run := 0 } ∧
    ∀ P, AtPos s P → AtPos t (P + 2)

/-- The invalid windows in any state: BAD_RUN or BAD_LEVEL, the command over, nothing of the window consumed, nothing
else changed (R140, R155, R177, R196; log entries 5 and 6). -/
def Obligations.InvalidSymbolsRaiseTheirErrors : Prop :=
  ∀ s : State,
    (∃ t, exec .runInvalid s = .next t ∧
      t = { withCursor s t with err := true, cause := 2, phase := .idle, zz := 0, run := 0 } ∧
      ∀ P, AtPos s P → AtPos t P) ∧
    (∃ t, exec .levInvalid s = .next t ∧
      t = { withCursor s t with err := true, cause := 3, phase := .idle, zz := 0, run := 0 } ∧
      ∀ P, AtPos s P → AtPos t P)

-- The step and the host's actions

/-- A step runs the instruction decoded: between commands, that of the command word the host issues, with the word taken
from what waits; in a running GETBLK with no reset waiting, that of the window at the cursor, with nothing around it.
Between commands a step is the action that waits first, whichever it is, so at the level of steps an illegal word (issued,
or written at CMD) takes ILLEGAL_CMD and a host write to DGM writes its byte; and in any configuration a step is that
configuration's action or symbol (R6, R9, R38, R51, R92, R194; how GETBLK's symbols come to be steps of their own and that
the actions wait in a list is the model's choice, log entries 3 and 5). -/
def Obligations.StepRunsTheDecodedInstruction : Prop :=
  (∀ (s : State) (cw : Word) (rest : List HostAction) (i : Instr), s.phase = .idle → s.inbox = .cmd cw :: rest →
    decode (.cmd cw) = .ok i → step s = exec i { s with inbox := rest }) ∧
  (∀ (s : State) (p : Placed) (i : Instr), fetchSymbol s = some p → (∀ rest, s.inbox ≠ .reset :: rest) →
    decode p = .ok i → step s = exec i s) ∧
  (∀ (s : State) (a : HostAction) (rest : List HostAction), s.phase = .idle → s.inbox = a :: rest →
    step s = hostAction a { s with inbox := rest } ∧
      ∀ T, stepOver T s = hostActionOver T a { s with inbox := rest }) ∧
  (∀ (s : State) (cw : Word) (rest : List HostAction), s.phase = .idle →
    s.inbox = .cmd cw :: rest ∨ s.inbox = .writeReg 0 cw :: rest → ¬LegalCmd cw →
    step s = .next { s with inbox := rest, err := true, cause := 4 }) ∧
  (∀ (s : State) (a : BitVec 16) (b : Byte) (data : Word) (rest : List HostAction), s.phase = .idle →
    s.inbox = .writeDgm a b :: rest ∨
      (s.inbox = .writeReg (BitVec.ofNat 17 (0x10000 + a.toNat)) data :: rest ∧ b = BitVec.ofNat 8 data.toNat) →
    ∃ t, step s = .next t ∧ t = { s with inbox := rest, dgm := t.dgm } ∧ dgmCell t a.toNat = b ∧
      ∀ k, k ≠ a.toNat → dgmCell t k = dgmCell s k) ∧
  (∀ (T : Config.Tables) (s : State) (p : Placed), fetchSymbol s = some p → (∀ rest, s.inbox ≠ .reset :: rest) →
    stepOver T s = runPlacedOver T p s)

/-- A Reset that waits first gives every register of R20's table its reset value, also in the middle of a command, and
keeps DGM and BLK (R220, R221); State.reset has those values. The cursor is then at position 0 of an empty datagram, where
every read returns zeros, and no command but a BIND of len > 0 ends that. (That the transient state and the waiting host
actions are what they are after it is the model's choice, log entries 3, 5 and 8.) -/
def Obligations.ResetGivesTheResetValues : Prop :=
  (∀ (s : State) (rest : List HostAction), s.inbox = .reset :: rest →
    step s = .next { s with
      inbox := rest, len := 0, offset := 0, acc := 0, cnt := 0, err := false, cause := 0, dconly := false,
      blkvalid := false, result := 0, phase := .idle, zz := 0, run := 0 }) ∧
  State.reset.len = 0 ∧ State.reset.offset = 0 ∧ State.reset.acc = 0 ∧ State.reset.cnt = 0 ∧
  statusWord State.reset = 0 ∧ State.reset.result = 0 ∧
  (∀ s : State, AtPos (hostReset s) 0 ∧ (hostReset s).len = 0 ∧ (hostReset s).acc = 0) ∧
  (∀ (i : Instr) (s t : State), s.len = 0 → s.acc = 0 → exec i s = .next t → (∀ L, i = .bind L → L = 0) →
    t.len = 0 ∧ t.acc = 0 ∧ ∀ n, n.toNat ≤ 32 → i = .read n ∨ i = .peek n → t.result = 0)

/-- R51: no instruction writes DGM; the host's write changes the one byte and nothing else, and no other action of the
host writes DGM but the bus write in the DGM window, which is that write. -/
def Obligations.OnlyTheHostWritesTheDatagram : Prop :=
  (∀ (i : Instr) (s t : State), exec i s = .next t → t.dgm = s.dgm) ∧
  (∀ (s : State) (a : BitVec 16) (b : Byte),
    ∃ t, hostAction (.writeDgm a b) s = .next t ∧ t = { s with dgm := t.dgm } ∧ dgmCell t a.toNat = b ∧
      ∀ k, k ≠ a.toNat → dgmCell t k = dgmCell s k) ∧
  (∀ (act : HostAction) (s t : State), hostAction act s = .next t → t.dgm ≠ s.dgm →
    ∃ a b, hostAction act s = hostAction (.writeDgm a b) s)

/-- A register read delivers the content of R37's map and changes nothing else (R37, R38); the value is held in the
model's own field rdata (log entry 4). -/
def Obligations.RegisterReadsFollowTheMap : Prop :=
  (∀ (s : State) (addr : BitVec 17) (rest : List HostAction), s.phase = .idle → s.inbox = .readReg addr :: rest →
    (0x10000 ≤ addr.toNat ∨ addr.toNat % 4 = 0) → step s = .next { s with inbox := rest, rdata := readReg s addr }) ∧
  ∀ s : State,
    readReg s 0x00000 = 0 ∧ readReg s 0x00004 = statusWord s ∧ readReg s 0x00008 = s.result ∧
    (readReg s 0x0000C).toNat = s.len.toNat ∧ (readReg s 0x00010).toNat = s.offset.toNat ∧
    (readReg s 0x00014).toNat = s.cnt.toNat ∧
    (readReg s 0x00018).toNat + (readReg s 0x0001C).toNat * 2 ^ 32 = s.acc.toNat ∧
    (∀ p : Fin 64, readReg s (BitVec.ofNat 17 (0x100 + 4 * p.val)) = s.blk[p]) ∧
    (∀ a : BitVec 16, (readReg s (BitVec.ofNat 17 (0x10000 + a.toNat))).toNat = (dgmCell s a.toNat).toNat) ∧
    (∀ addr : BitVec 17, addr.toNat % 4 = 0 → 0x20 ≤ addr.toNat → addr.toNat < 0x10000 →
      ¬(0x100 ≤ addr.toNat ∧ addr.toNat < 0x200) → readReg s addr = 0)

/-- A bus write at CMD is the command, in the DGM window the write of its low byte, and at any other aligned address
nothing (R37, R38). -/
def Obligations.RegisterWritesFollowTheMap : Prop :=
  ∀ (s : State) (data : Word),
    hostAction (.writeReg 0 data) s = hostAction (.cmd data) s ∧
    (∀ a : BitVec 16, hostAction (.writeReg (BitVec.ofNat 17 (0x10000 + a.toNat)) data) s =
      hostAction (.writeDgm a (BitVec.ofNat 8 data.toNat)) s) ∧
    (∀ addr : BitVec 17, addr ≠ 0 → addr.toNat < 0x10000 → addr.toNat % 4 = 0 →
      hostAction (.writeReg addr data) s = .next s)

/-- The machine stops on nothing but a register access that is not an aligned word outside the DGM window (R57, log entry
10), in any configuration (R9). -/
def Obligations.OnlyUnalignedRegisterAccessIsRefused : Prop :=
  ∀ s : State,
    ((∃ r, step s = .refused r) ↔
      s.phase = .idle ∧ ∃ (addr : BitVec 17) (rest : List HostAction), addr.toNat < 0x10000 ∧ addr.toNat % 4 ≠ 0 ∧
        (s.inbox = .readReg addr :: rest ∨ ∃ data, s.inbox = .writeReg addr data :: rest)) ∧
    (∀ r, step s = .refused r → r = .unalignedRegister) ∧ (∀ f, step s ≠ .fault f) ∧
    ∀ T, (∀ r, stepOver T s = .refused r ↔ step s = .refused r) ∧ ∀ f, stepOver T s ≠ .fault f

/-- Between commands, with no host action waiting, EDEC holds its state (R209, log entry 9). -/
def Obligations.IdleMachineHoldsItsState : Prop :=
  ∀ s : State, s.phase = .idle → s.inbox = [] → step s = .next s

/-- Between commands a step that answers a next state ends between commands again, in any configuration (R6, R9, R233,
log entry 5). -/
def Obligations.CommandsCompleteInOneStep : Prop :=
  ∀ s t : State, s.phase = .idle →
    (step s = .next t → t.phase = .idle) ∧ ∀ T, stepOver T s = .next t → t.phase = .idle

/-- STATUS: ERR in bit 0, DCONLY in bit 1, BLKVALID in bit 2, CAUSE in bits 7:4, every other bit 0 (R31). -/
def Obligations.StatusWordLayout : Prop :=
  ∀ s : State, (statusWord s).toNat =
    s.err.toNat + 2 * s.dconly.toNat + 4 * s.blkvalid.toNat + 16 * s.cause.toNat

-- The whole machine

/-- ERR, once set, is cleared by no instruction but BIND, and by no step but a Reset or a BIND (R32, R200). -/
def Obligations.ErrIsClearedOnlyByBindAndReset : Prop :=
  (∀ (i : Instr) (s t : State), exec i s = .next t → s.err = true → t.err = false → ∃ L, i = .bind L) ∧
  (∀ s t : State, step s = .next t → s.err = true → t.err = false →
    ∃ rest, s.inbox = .reset :: rest ∨ ∃ cw L, decodeCmd cw = .ok (.bind L) ∧
      (s.inbox = .cmd cw :: rest ∨ s.inbox = .writeReg 0 cw :: rest))

/-- What ERR and CAUSE hold changes nothing of what an instruction does to the rest of the state, and an instruction
that raises an error leaves its own cause (R32, R33, R201). -/
def Obligations.ErrDoesNotInfluenceCommands : Prop :=
  ∀ (i : Instr) (s : State) (e : Bool) (c : BitVec 4),
    ∃ t u, exec i s = .next t ∧ exec i { s with err := e, cause := c } = .next u ∧
      u = { t with err := u.err, cause := u.cause } ∧
      ((t.err = s.err ∧ t.cause = s.cause ∧ u.err = e ∧ u.cause = c) ∨ (u.err = t.err ∧ u.cause = t.cause))

/-- Who writes what: RESULT only READ and PEEK (R36), len only BIND (R21), BLK, DCONLY and BLKVALID only GETBLK and its
symbols (R30, R34, R35), and no instruction the model's own inbox and rdata. -/
def Obligations.EachRegisterHasItsWriters : Prop :=
  ∀ (i : Instr) (s t : State), exec i s = .next t →
    t.inbox = s.inbox ∧ t.rdata = s.rdata ∧
    (t.result ≠ s.result → ∃ n, i = .read n ∨ i = .peek n) ∧
    (t.len ≠ s.len → ∃ L, i = .bind L) ∧
    ((i = .nop ∨ i = .align ∨ (∃ L, i = .bind L) ∨ ∃ n, i = .read n ∨ i = .peek n) →
      t.blk = s.blk ∧ t.dconly = s.dconly ∧ t.blkvalid = s.blkvalid ∧ t.phase = s.phase ∧ t.zz = s.zz ∧ t.run = s.run)

/-- No instruction but BIND moves the position back (R28). -/
def Obligations.PositionNeverMovesBack : Prop :=
  ∀ (i : Instr) (s t : State) (P : Nat), AtPos s P → exec i s = .next t → (∀ L, i ≠ .bind L) →
    ∃ Q, P ≤ Q ∧ AtPos t Q

/-- Every step keeps the invariant: memory's canonical form, the cursor invariant of R25, ERR and CAUSE in step, the
transient state within R41's range (held in State by log entry 5). So does every step in any well-formed configuration
(R9). -/
def Obligations.EveryStepKeepsTheInvariant : Prop :=
  (∀ s t : State, MachineInv s → step s = .next t → MachineInv t) ∧
  ∀ T, tablesWf T → ∀ s t : State, MachineInv s → stepOver T s = .next t → MachineInv t

/-- The machine after reset meets the invariant. -/
def Obligations.ResetMeetsTheInvariant : Prop := MachineInv State.reset

-- Any configuration (R9)

/-- In every well-formed configuration T, whatever its tables hold: GETBLK 0 leaves the DC coefficient alone; and where T
reads the stream after the DC field as pairs that fit, GETBLK 1 leaves those pairs' coefficients and then ends as T's
entries at that place say: BAD_RUN at an invalid run entry, BAD_LEVEL at an invalid level entry, no error at an
end-of-block entry, OVERRUN at a value beyond index 63, each with the bits consumed that its rule says (R9, R170 to R177,
R191 to R193, R196, R198). -/
def Obligations.GetblkDecodesInAnyConfiguration : Prop :=
  ∀ (T : Config.Tables), tablesWf T → ∀ (s : State) (P : Nat), AtPos s P →
    (∃ t, execCmdOver T (.getblk false) s = .next t ∧
      t = afterGetblk s t false (dcBlk T (streamVal s P 10)) true s.err s.cause ∧ AtPos t (P + 10)) ∧
    ∀ ps : List (Config.RunEntry × Config.LevEntry), EntriesAt T s (P + 10) ps → RunsFit 1 (pairsOf ps) →
      let Q := P + 10 + entriesLen ps
      let b := placePairs T 1 (pairsOf ps) (dcBlk T (streamVal s P 10))
      let e := runAt T s Q
      let f := levAt T s (Q + e.nbits)
      ∃ t, execCmdOver T (.getblk true) s = .next t ∧
        (e.valid = false → t = afterGetblk s t true b false true 2 ∧ AtPos t Q) ∧
        (e.valid = true → f.valid = false → t = afterGetblk s t true b false true 3 ∧ AtPos t (Q + e.nbits)) ∧
        (e.valid = true → f.valid = true → f.eob = true →
          t = afterGetblk s t true b true s.err s.cause ∧ AtPos t (Q + e.nbits + f.nbits)) ∧
        (e.valid = true → f.valid = true → f.eob = false → 63 < pairsEnd 1 (pairsOf ps) + e.run →
          t = afterGetblk s t true b false true 1 ∧ AtPos t (Q + e.nbits + f.nbits))

/-- The machine is the configured one at the default tables (log entry 7): whatever is placed, whatever the host does and
in every step. In any configuration a legal command word but GETBLK is its instruction, GETBLK decodes with that
configuration's tables, and an illegal word takes ILLEGAL_CMD (R9, R40, R81, R194). -/
def Obligations.MachineIsTheConfiguredOneAtTheDefaults : Prop :=
  (∀ (p : Placed) (s : State), runPlacedOver tables p s = runPlaced p s) ∧
  (∀ (a : HostAction) (s : State), hostActionOver tables a s = hostAction a s) ∧
  (∀ s : State, stepOver tables s = step s) ∧
  ∀ (T : Config.Tables) (cw : Word) (s : State),
    (∀ i, decodeCmd cw = .ok i → (∀ hc, i ≠ .getblk hc) → hostActionOver T (.cmd cw) s = exec i s) ∧
    (∀ hc, decodeCmd cw = .ok (.getblk hc) → hostActionOver T (.cmd cw) s = .next (getblk T hc s)) ∧
    (¬LegalCmd cw → hostActionOver T (.cmd cw) s = .next { s with err := true, cause := 4 })
end

