-- ==== Sys2Proof/Laws/State.lean ====
section
/-! SUPPORT. One lemma a field for each update of the state: what the update writes and what it leaves. -/

namespace Sys2Proof.Machine

@[simp] theorem startFlags_dgm (hc : Bool) (s : State) : (startFlags hc s).dgm = s.dgm := rfl
@[simp] theorem startFlags_len (hc : Bool) (s : State) : (startFlags hc s).len = s.len := rfl
@[simp] theorem startFlags_offset (hc : Bool) (s : State) : (startFlags hc s).offset = s.offset := rfl
@[simp] theorem startFlags_acc (hc : Bool) (s : State) : (startFlags hc s).acc = s.acc := rfl
@[simp] theorem startFlags_cnt (hc : Bool) (s : State) : (startFlags hc s).cnt = s.cnt := rfl
@[simp] theorem startFlags_blk (hc : Bool) (s : State) : (startFlags hc s).blk = s.blk := rfl
@[simp] theorem startFlags_err (hc : Bool) (s : State) : (startFlags hc s).err = s.err := rfl
@[simp] theorem startFlags_cause (hc : Bool) (s : State) : (startFlags hc s).cause = s.cause := rfl
@[simp] theorem startFlags_dconly (hc : Bool) (s : State) : (startFlags hc s).dconly = !hc := rfl
@[simp] theorem startFlags_blkvalid (hc : Bool) (s : State) : (startFlags hc s).blkvalid = false := rfl
@[simp] theorem startFlags_result (hc : Bool) (s : State) : (startFlags hc s).result = s.result := rfl
@[simp] theorem startFlags_phase (hc : Bool) (s : State) : (startFlags hc s).phase = s.phase := rfl
@[simp] theorem startFlags_zz (hc : Bool) (s : State) : (startFlags hc s).zz = s.zz := rfl
@[simp] theorem startFlags_run (hc : Bool) (s : State) : (startFlags hc s).run = s.run := rfl
@[simp] theorem startFlags_inbox (hc : Bool) (s : State) : (startFlags hc s).inbox = s.inbox := rfl
@[simp] theorem startFlags_rdata (hc : Bool) (s : State) : (startFlags hc s).rdata = s.rdata := rfl

@[simp] theorem setBlkvalid_dgm (s : State) : (setBlkvalid s).dgm = s.dgm := rfl
@[simp] theorem setBlkvalid_len (s : State) : (setBlkvalid s).len = s.len := rfl
@[simp] theorem setBlkvalid_offset (s : State) : (setBlkvalid s).offset = s.offset := rfl
@[simp] theorem setBlkvalid_acc (s : State) : (setBlkvalid s).acc = s.acc := rfl
@[simp] theorem setBlkvalid_cnt (s : State) : (setBlkvalid s).cnt = s.cnt := rfl
@[simp] theorem setBlkvalid_blk (s : State) : (setBlkvalid s).blk = s.blk := rfl
@[simp] theorem setBlkvalid_err (s : State) : (setBlkvalid s).err = s.err := rfl
@[simp] theorem setBlkvalid_cause (s : State) : (setBlkvalid s).cause = s.cause := rfl
@[simp] theorem setBlkvalid_dconly (s : State) : (setBlkvalid s).dconly = s.dconly := rfl
@[simp] theorem setBlkvalid_blkvalid (s : State) : (setBlkvalid s).blkvalid = true := rfl
@[simp] theorem setBlkvalid_result (s : State) : (setBlkvalid s).result = s.result := rfl
@[simp] theorem setBlkvalid_phase (s : State) : (setBlkvalid s).phase = s.phase := rfl
@[simp] theorem setBlkvalid_zz (s : State) : (setBlkvalid s).zz = s.zz := rfl
@[simp] theorem setBlkvalid_run (s : State) : (setBlkvalid s).run = s.run := rfl
@[simp] theorem setBlkvalid_inbox (s : State) : (setBlkvalid s).inbox = s.inbox := rfl
@[simp] theorem setBlkvalid_rdata (s : State) : (setBlkvalid s).rdata = s.rdata := rfl

@[simp] theorem refill_dgm (s : State) : (refill s).dgm = s.dgm := rfl
@[simp] theorem refill_len (s : State) : (refill s).len = s.len := rfl
@[simp] theorem refill_offset (s : State) : (refill s).offset = BitVec.ofNat 18 (min (s.offset.toNat + 4) Config.offsetSat) := rfl
@[simp] theorem refill_acc (s : State) : (refill s).acc = BitVec.ofNat 64 (s.acc.toNat * 2 ^ 32 + memRead4 s s.offset.toNat) := rfl
@[simp] theorem refill_cnt (s : State) : (refill s).cnt = BitVec.ofNat 6 (s.cnt.toNat + 32) := rfl
@[simp] theorem refill_blk (s : State) : (refill s).blk = s.blk := rfl
@[simp] theorem refill_err (s : State) : (refill s).err = s.err := rfl
@[simp] theorem refill_cause (s : State) : (refill s).cause = s.cause := rfl
@[simp] theorem refill_dconly (s : State) : (refill s).dconly = s.dconly := rfl
@[simp] theorem refill_blkvalid (s : State) : (refill s).blkvalid = s.blkvalid := rfl
@[simp] theorem refill_result (s : State) : (refill s).result = s.result := rfl
@[simp] theorem refill_phase (s : State) : (refill s).phase = s.phase := rfl
@[simp] theorem refill_zz (s : State) : (refill s).zz = s.zz := rfl
@[simp] theorem refill_run (s : State) : (refill s).run = s.run := rfl
@[simp] theorem refill_inbox (s : State) : (refill s).inbox = s.inbox := rfl
@[simp] theorem refill_rdata (s : State) : (refill s).rdata = s.rdata := rfl

@[simp] theorem consume_dgm (n : Nat) (s : State) : (consume n s).dgm = s.dgm := rfl
@[simp] theorem consume_len (n : Nat) (s : State) : (consume n s).len = s.len := rfl
@[simp] theorem consume_offset (n : Nat) (s : State) : (consume n s).offset = s.offset := rfl
@[simp] theorem consume_acc (n : Nat) (s : State) : (consume n s).acc = BitVec.ofNat 64 (s.acc.toNat % 2 ^ (s.cnt.toNat - n)) := rfl
@[simp] theorem consume_cnt (n : Nat) (s : State) : (consume n s).cnt = BitVec.ofNat 6 (s.cnt.toNat - n) := rfl
@[simp] theorem consume_blk (n : Nat) (s : State) : (consume n s).blk = s.blk := rfl
@[simp] theorem consume_err (n : Nat) (s : State) : (consume n s).err = s.err := rfl
@[simp] theorem consume_cause (n : Nat) (s : State) : (consume n s).cause = s.cause := rfl
@[simp] theorem consume_dconly (n : Nat) (s : State) : (consume n s).dconly = s.dconly := rfl
@[simp] theorem consume_blkvalid (n : Nat) (s : State) : (consume n s).blkvalid = s.blkvalid := rfl
@[simp] theorem consume_result (n : Nat) (s : State) : (consume n s).result = s.result := rfl
@[simp] theorem consume_phase (n : Nat) (s : State) : (consume n s).phase = s.phase := rfl
@[simp] theorem consume_zz (n : Nat) (s : State) : (consume n s).zz = s.zz := rfl
@[simp] theorem consume_run (n : Nat) (s : State) : (consume n s).run = s.run := rfl
@[simp] theorem consume_inbox (n : Nat) (s : State) : (consume n s).inbox = s.inbox := rfl
@[simp] theorem consume_rdata (n : Nat) (s : State) : (consume n s).rdata = s.rdata := rfl

@[simp] theorem rewind_dgm (s : State) : (rewind s).dgm = s.dgm := rfl
@[simp] theorem rewind_len (s : State) : (rewind s).len = s.len := rfl
@[simp] theorem rewind_offset (s : State) : (rewind s).offset = 0 := rfl
@[simp] theorem rewind_acc (s : State) : (rewind s).acc = 0 := rfl
@[simp] theorem rewind_cnt (s : State) : (rewind s).cnt = 0 := rfl
@[simp] theorem rewind_blk (s : State) : (rewind s).blk = s.blk := rfl
@[simp] theorem rewind_err (s : State) : (rewind s).err = s.err := rfl
@[simp] theorem rewind_cause (s : State) : (rewind s).cause = s.cause := rfl
@[simp] theorem rewind_dconly (s : State) : (rewind s).dconly = s.dconly := rfl
@[simp] theorem rewind_blkvalid (s : State) : (rewind s).blkvalid = s.blkvalid := rfl
@[simp] theorem rewind_result (s : State) : (rewind s).result = s.result := rfl
@[simp] theorem rewind_phase (s : State) : (rewind s).phase = s.phase := rfl
@[simp] theorem rewind_zz (s : State) : (rewind s).zz = s.zz := rfl
@[simp] theorem rewind_run (s : State) : (rewind s).run = s.run := rfl
@[simp] theorem rewind_inbox (s : State) : (rewind s).inbox = s.inbox := rfl
@[simp] theorem rewind_rdata (s : State) : (rewind s).rdata = s.rdata := rfl

@[simp] theorem setResult_dgm (v : Nat) (s : State) : (setResult v s).dgm = s.dgm := rfl
@[simp] theorem setResult_len (v : Nat) (s : State) : (setResult v s).len = s.len := rfl
@[simp] theorem setResult_offset (v : Nat) (s : State) : (setResult v s).offset = s.offset := rfl
@[simp] theorem setResult_acc (v : Nat) (s : State) : (setResult v s).acc = s.acc := rfl
@[simp] theorem setResult_cnt (v : Nat) (s : State) : (setResult v s).cnt = s.cnt := rfl
@[simp] theorem setResult_blk (v : Nat) (s : State) : (setResult v s).blk = s.blk := rfl
@[simp] theorem setResult_err (v : Nat) (s : State) : (setResult v s).err = s.err := rfl
@[simp] theorem setResult_cause (v : Nat) (s : State) : (setResult v s).cause = s.cause := rfl
@[simp] theorem setResult_dconly (v : Nat) (s : State) : (setResult v s).dconly = s.dconly := rfl
@[simp] theorem setResult_blkvalid (v : Nat) (s : State) : (setResult v s).blkvalid = s.blkvalid := rfl
@[simp] theorem setResult_result (v : Nat) (s : State) : (setResult v s).result = BitVec.ofNat 32 v := rfl
@[simp] theorem setResult_phase (v : Nat) (s : State) : (setResult v s).phase = s.phase := rfl
@[simp] theorem setResult_zz (v : Nat) (s : State) : (setResult v s).zz = s.zz := rfl
@[simp] theorem setResult_run (v : Nat) (s : State) : (setResult v s).run = s.run := rfl
@[simp] theorem setResult_inbox (v : Nat) (s : State) : (setResult v s).inbox = s.inbox := rfl
@[simp] theorem setResult_rdata (v : Nat) (s : State) : (setResult v s).rdata = s.rdata := rfl

@[simp] theorem awaitLevel_dgm (r : Nat) (s : State) : (awaitLevel r s).dgm = s.dgm := rfl
@[simp] theorem awaitLevel_len (r : Nat) (s : State) : (awaitLevel r s).len = s.len := rfl
@[simp] theorem awaitLevel_offset (r : Nat) (s : State) : (awaitLevel r s).offset = s.offset := rfl
@[simp] theorem awaitLevel_acc (r : Nat) (s : State) : (awaitLevel r s).acc = s.acc := rfl
@[simp] theorem awaitLevel_cnt (r : Nat) (s : State) : (awaitLevel r s).cnt = s.cnt := rfl
@[simp] theorem awaitLevel_blk (r : Nat) (s : State) : (awaitLevel r s).blk = s.blk := rfl
@[simp] theorem awaitLevel_err (r : Nat) (s : State) : (awaitLevel r s).err = s.err := rfl
@[simp] theorem awaitLevel_cause (r : Nat) (s : State) : (awaitLevel r s).cause = s.cause := rfl
@[simp] theorem awaitLevel_dconly (r : Nat) (s : State) : (awaitLevel r s).dconly = s.dconly := rfl
@[simp] theorem awaitLevel_blkvalid (r : Nat) (s : State) : (awaitLevel r s).blkvalid = s.blkvalid := rfl
@[simp] theorem awaitLevel_result (r : Nat) (s : State) : (awaitLevel r s).result = s.result := rfl
@[simp] theorem awaitLevel_phase (r : Nat) (s : State) : (awaitLevel r s).phase = .level := rfl
@[simp] theorem awaitLevel_zz (r : Nat) (s : State) : (awaitLevel r s).zz = s.zz := rfl
@[simp] theorem awaitLevel_run (r : Nat) (s : State) : (awaitLevel r s).run = r := rfl
@[simp] theorem awaitLevel_inbox (r : Nat) (s : State) : (awaitLevel r s).inbox = s.inbox := rfl
@[simp] theorem awaitLevel_rdata (r : Nat) (s : State) : (awaitLevel r s).rdata = s.rdata := rfl

@[simp] theorem takeError_dgm (c : Cause) (s : State) : (takeError c s).dgm = s.dgm := rfl
@[simp] theorem takeError_len (c : Cause) (s : State) : (takeError c s).len = s.len := rfl
@[simp] theorem takeError_offset (c : Cause) (s : State) : (takeError c s).offset = s.offset := rfl
@[simp] theorem takeError_acc (c : Cause) (s : State) : (takeError c s).acc = s.acc := rfl
@[simp] theorem takeError_cnt (c : Cause) (s : State) : (takeError c s).cnt = s.cnt := rfl
@[simp] theorem takeError_blk (c : Cause) (s : State) : (takeError c s).blk = s.blk := rfl
@[simp] theorem takeError_err (c : Cause) (s : State) : (takeError c s).err = true := rfl
@[simp] theorem takeError_cause (c : Cause) (s : State) : (takeError c s).cause = causeCode c := rfl
@[simp] theorem takeError_dconly (c : Cause) (s : State) : (takeError c s).dconly = s.dconly := rfl
@[simp] theorem takeError_blkvalid (c : Cause) (s : State) : (takeError c s).blkvalid = s.blkvalid := rfl
@[simp] theorem takeError_result (c : Cause) (s : State) : (takeError c s).result = s.result := rfl
@[simp] theorem takeError_phase (c : Cause) (s : State) : (takeError c s).phase = s.phase := rfl
@[simp] theorem takeError_zz (c : Cause) (s : State) : (takeError c s).zz = s.zz := rfl
@[simp] theorem takeError_run (c : Cause) (s : State) : (takeError c s).run = s.run := rfl
@[simp] theorem takeError_inbox (c : Cause) (s : State) : (takeError c s).inbox = s.inbox := rfl
@[simp] theorem takeError_rdata (c : Cause) (s : State) : (takeError c s).rdata = s.rdata := rfl

@[simp] theorem clearError_dgm (s : State) : (clearError s).dgm = s.dgm := rfl
@[simp] theorem clearError_len (s : State) : (clearError s).len = s.len := rfl
@[simp] theorem clearError_offset (s : State) : (clearError s).offset = s.offset := rfl
@[simp] theorem clearError_acc (s : State) : (clearError s).acc = s.acc := rfl
@[simp] theorem clearError_cnt (s : State) : (clearError s).cnt = s.cnt := rfl
@[simp] theorem clearError_blk (s : State) : (clearError s).blk = s.blk := rfl
@[simp] theorem clearError_err (s : State) : (clearError s).err = false := rfl
@[simp] theorem clearError_cause (s : State) : (clearError s).cause = 0 := rfl
@[simp] theorem clearError_dconly (s : State) : (clearError s).dconly = s.dconly := rfl
@[simp] theorem clearError_blkvalid (s : State) : (clearError s).blkvalid = s.blkvalid := rfl
@[simp] theorem clearError_result (s : State) : (clearError s).result = s.result := rfl
@[simp] theorem clearError_phase (s : State) : (clearError s).phase = s.phase := rfl
@[simp] theorem clearError_zz (s : State) : (clearError s).zz = s.zz := rfl
@[simp] theorem clearError_run (s : State) : (clearError s).run = s.run := rfl
@[simp] theorem clearError_inbox (s : State) : (clearError s).inbox = s.inbox := rfl
@[simp] theorem clearError_rdata (s : State) : (clearError s).rdata = s.rdata := rfl

@[simp] theorem endGetblk_dgm (s : State) : (endGetblk s).dgm = s.dgm := rfl
@[simp] theorem endGetblk_len (s : State) : (endGetblk s).len = s.len := rfl
@[simp] theorem endGetblk_offset (s : State) : (endGetblk s).offset = s.offset := rfl
@[simp] theorem endGetblk_acc (s : State) : (endGetblk s).acc = s.acc := rfl
@[simp] theorem endGetblk_cnt (s : State) : (endGetblk s).cnt = s.cnt := rfl
@[simp] theorem endGetblk_blk (s : State) : (endGetblk s).blk = s.blk := rfl
@[simp] theorem endGetblk_err (s : State) : (endGetblk s).err = s.err := rfl
@[simp] theorem endGetblk_cause (s : State) : (endGetblk s).cause = s.cause := rfl
@[simp] theorem endGetblk_dconly (s : State) : (endGetblk s).dconly = s.dconly := rfl
@[simp] theorem endGetblk_blkvalid (s : State) : (endGetblk s).blkvalid = s.blkvalid := rfl
@[simp] theorem endGetblk_result (s : State) : (endGetblk s).result = s.result := rfl
@[simp] theorem endGetblk_phase (s : State) : (endGetblk s).phase = .idle := rfl
@[simp] theorem endGetblk_zz (s : State) : (endGetblk s).zz = 0 := rfl
@[simp] theorem endGetblk_run (s : State) : (endGetblk s).run = 0 := rfl
@[simp] theorem endGetblk_inbox (s : State) : (endGetblk s).inbox = s.inbox := rfl
@[simp] theorem endGetblk_rdata (s : State) : (endGetblk s).rdata = s.rdata := rfl

@[simp] theorem awaitRun_dgm (i : Nat) (s : State) : (awaitRun i s).dgm = s.dgm := rfl
@[simp] theorem awaitRun_len (i : Nat) (s : State) : (awaitRun i s).len = s.len := rfl
@[simp] theorem awaitRun_offset (i : Nat) (s : State) : (awaitRun i s).offset = s.offset := rfl
@[simp] theorem awaitRun_acc (i : Nat) (s : State) : (awaitRun i s).acc = s.acc := rfl
@[simp] theorem awaitRun_cnt (i : Nat) (s : State) : (awaitRun i s).cnt = s.cnt := rfl
@[simp] theorem awaitRun_blk (i : Nat) (s : State) : (awaitRun i s).blk = s.blk := rfl
@[simp] theorem awaitRun_err (i : Nat) (s : State) : (awaitRun i s).err = s.err := rfl
@[simp] theorem awaitRun_cause (i : Nat) (s : State) : (awaitRun i s).cause = s.cause := rfl
@[simp] theorem awaitRun_dconly (i : Nat) (s : State) : (awaitRun i s).dconly = s.dconly := rfl
@[simp] theorem awaitRun_blkvalid (i : Nat) (s : State) : (awaitRun i s).blkvalid = s.blkvalid := rfl
@[simp] theorem awaitRun_result (i : Nat) (s : State) : (awaitRun i s).result = s.result := rfl
@[simp] theorem awaitRun_phase (i : Nat) (s : State) : (awaitRun i s).phase = .run := rfl
@[simp] theorem awaitRun_zz (i : Nat) (s : State) : (awaitRun i s).zz = i := rfl
@[simp] theorem awaitRun_run (i : Nat) (s : State) : (awaitRun i s).run = 0 := rfl
@[simp] theorem awaitRun_inbox (i : Nat) (s : State) : (awaitRun i s).inbox = s.inbox := rfl
@[simp] theorem awaitRun_rdata (i : Nat) (s : State) : (awaitRun i s).rdata = s.rdata := rfl

@[simp] theorem writeBlk_dgm (p : Fin 64) (v : Word) (s : State) : (writeBlk p v s).dgm = s.dgm := rfl
@[simp] theorem writeBlk_len (p : Fin 64) (v : Word) (s : State) : (writeBlk p v s).len = s.len := rfl
@[simp] theorem writeBlk_offset (p : Fin 64) (v : Word) (s : State) : (writeBlk p v s).offset = s.offset := rfl
@[simp] theorem writeBlk_acc (p : Fin 64) (v : Word) (s : State) : (writeBlk p v s).acc = s.acc := rfl
@[simp] theorem writeBlk_cnt (p : Fin 64) (v : Word) (s : State) : (writeBlk p v s).cnt = s.cnt := rfl
@[simp] theorem writeBlk_blk (p : Fin 64) (v : Word) (s : State) : (writeBlk p v s).blk = s.blk.set p.val v p.isLt := rfl
@[simp] theorem writeBlk_err (p : Fin 64) (v : Word) (s : State) : (writeBlk p v s).err = s.err := rfl
@[simp] theorem writeBlk_cause (p : Fin 64) (v : Word) (s : State) : (writeBlk p v s).cause = s.cause := rfl
@[simp] theorem writeBlk_dconly (p : Fin 64) (v : Word) (s : State) : (writeBlk p v s).dconly = s.dconly := rfl
@[simp] theorem writeBlk_blkvalid (p : Fin 64) (v : Word) (s : State) : (writeBlk p v s).blkvalid = s.blkvalid := rfl
@[simp] theorem writeBlk_result (p : Fin 64) (v : Word) (s : State) : (writeBlk p v s).result = s.result := rfl
@[simp] theorem writeBlk_phase (p : Fin 64) (v : Word) (s : State) : (writeBlk p v s).phase = s.phase := rfl
@[simp] theorem writeBlk_zz (p : Fin 64) (v : Word) (s : State) : (writeBlk p v s).zz = s.zz := rfl
@[simp] theorem writeBlk_run (p : Fin 64) (v : Word) (s : State) : (writeBlk p v s).run = s.run := rfl
@[simp] theorem writeBlk_inbox (p : Fin 64) (v : Word) (s : State) : (writeBlk p v s).inbox = s.inbox := rfl
@[simp] theorem writeBlk_rdata (p : Fin 64) (v : Word) (s : State) : (writeBlk p v s).rdata = s.rdata := rfl

@[simp] theorem startGetblk_dgm (hc : Bool) (s : State) : (startGetblk hc s).dgm = s.dgm := rfl
@[simp] theorem startGetblk_len (hc : Bool) (s : State) : (startGetblk hc s).len = s.len := rfl
@[simp] theorem startGetblk_offset (hc : Bool) (s : State) : (startGetblk hc s).offset = s.offset := rfl
@[simp] theorem startGetblk_acc (hc : Bool) (s : State) : (startGetblk hc s).acc = s.acc := rfl
@[simp] theorem startGetblk_cnt (hc : Bool) (s : State) : (startGetblk hc s).cnt = s.cnt := rfl
@[simp] theorem startGetblk_blk (hc : Bool) (s : State) : (startGetblk hc s).blk = zeroBlk := rfl
@[simp] theorem startGetblk_err (hc : Bool) (s : State) : (startGetblk hc s).err = s.err := rfl
@[simp] theorem startGetblk_cause (hc : Bool) (s : State) : (startGetblk hc s).cause = s.cause := rfl
@[simp] theorem startGetblk_dconly (hc : Bool) (s : State) : (startGetblk hc s).dconly = !hc := rfl
@[simp] theorem startGetblk_blkvalid (hc : Bool) (s : State) : (startGetblk hc s).blkvalid = false := rfl
@[simp] theorem startGetblk_result (hc : Bool) (s : State) : (startGetblk hc s).result = s.result := rfl
@[simp] theorem startGetblk_phase (hc : Bool) (s : State) : (startGetblk hc s).phase = .dc := rfl
@[simp] theorem startGetblk_zz (hc : Bool) (s : State) : (startGetblk hc s).zz = 0 := rfl
@[simp] theorem startGetblk_run (hc : Bool) (s : State) : (startGetblk hc s).run = 0 := rfl
@[simp] theorem startGetblk_inbox (hc : Bool) (s : State) : (startGetblk hc s).inbox = s.inbox := rfl
@[simp] theorem startGetblk_rdata (hc : Bool) (s : State) : (startGetblk hc s).rdata = s.rdata := rfl

@[simp] theorem hostWriteDgm_dgm (a : BitVec 16) (b : Byte) (s : State) : (hostWriteDgm a b s).dgm = memWrite s.dgm a.toNat b := rfl
@[simp] theorem hostWriteDgm_len (a : BitVec 16) (b : Byte) (s : State) : (hostWriteDgm a b s).len = s.len := rfl
@[simp] theorem hostWriteDgm_offset (a : BitVec 16) (b : Byte) (s : State) : (hostWriteDgm a b s).offset = s.offset := rfl
@[simp] theorem hostWriteDgm_acc (a : BitVec 16) (b : Byte) (s : State) : (hostWriteDgm a b s).acc = s.acc := rfl
@[simp] theorem hostWriteDgm_cnt (a : BitVec 16) (b : Byte) (s : State) : (hostWriteDgm a b s).cnt = s.cnt := rfl
@[simp] theorem hostWriteDgm_blk (a : BitVec 16) (b : Byte) (s : State) : (hostWriteDgm a b s).blk = s.blk := rfl
@[simp] theorem hostWriteDgm_err (a : BitVec 16) (b : Byte) (s : State) : (hostWriteDgm a b s).err = s.err := rfl
@[simp] theorem hostWriteDgm_cause (a : BitVec 16) (b : Byte) (s : State) : (hostWriteDgm a b s).cause = s.cause := rfl
@[simp] theorem hostWriteDgm_dconly (a : BitVec 16) (b : Byte) (s : State) : (hostWriteDgm a b s).dconly = s.dconly := rfl
@[simp] theorem hostWriteDgm_blkvalid (a : BitVec 16) (b : Byte) (s : State) : (hostWriteDgm a b s).blkvalid = s.blkvalid := rfl
@[simp] theorem hostWriteDgm_result (a : BitVec 16) (b : Byte) (s : State) : (hostWriteDgm a b s).result = s.result := rfl
@[simp] theorem hostWriteDgm_phase (a : BitVec 16) (b : Byte) (s : State) : (hostWriteDgm a b s).phase = s.phase := rfl
@[simp] theorem hostWriteDgm_zz (a : BitVec 16) (b : Byte) (s : State) : (hostWriteDgm a b s).zz = s.zz := rfl
@[simp] theorem hostWriteDgm_run (a : BitVec 16) (b : Byte) (s : State) : (hostWriteDgm a b s).run = s.run := rfl
@[simp] theorem hostWriteDgm_inbox (a : BitVec 16) (b : Byte) (s : State) : (hostWriteDgm a b s).inbox = s.inbox := rfl
@[simp] theorem hostWriteDgm_rdata (a : BitVec 16) (b : Byte) (s : State) : (hostWriteDgm a b s).rdata = s.rdata := rfl

@[simp] theorem hostReset_dgm (s : State) : (hostReset s).dgm = s.dgm := rfl
@[simp] theorem hostReset_len (s : State) : (hostReset s).len = 0 := rfl
@[simp] theorem hostReset_offset (s : State) : (hostReset s).offset = 0 := rfl
@[simp] theorem hostReset_acc (s : State) : (hostReset s).acc = 0 := rfl
@[simp] theorem hostReset_cnt (s : State) : (hostReset s).cnt = 0 := rfl
@[simp] theorem hostReset_blk (s : State) : (hostReset s).blk = s.blk := rfl
@[simp] theorem hostReset_err (s : State) : (hostReset s).err = false := rfl
@[simp] theorem hostReset_cause (s : State) : (hostReset s).cause = 0 := rfl
@[simp] theorem hostReset_dconly (s : State) : (hostReset s).dconly = false := rfl
@[simp] theorem hostReset_blkvalid (s : State) : (hostReset s).blkvalid = false := rfl
@[simp] theorem hostReset_result (s : State) : (hostReset s).result = 0 := rfl
@[simp] theorem hostReset_phase (s : State) : (hostReset s).phase = .idle := rfl
@[simp] theorem hostReset_zz (s : State) : (hostReset s).zz = 0 := rfl
@[simp] theorem hostReset_run (s : State) : (hostReset s).run = 0 := rfl
@[simp] theorem hostReset_inbox (s : State) : (hostReset s).inbox = s.inbox := rfl
@[simp] theorem hostReset_rdata (s : State) : (hostReset s).rdata = s.rdata := rfl

@[simp] theorem fill_dgm (n : Nat) (s : State) : (fill n s).dgm = s.dgm := by unfold fill; split <;> rfl
@[simp] theorem fill_len (n : Nat) (s : State) : (fill n s).len = s.len := by unfold fill; split <;> rfl
@[simp] theorem fill_blk (n : Nat) (s : State) : (fill n s).blk = s.blk := by unfold fill; split <;> rfl
@[simp] theorem fill_err (n : Nat) (s : State) : (fill n s).err = s.err := by unfold fill; split <;> rfl
@[simp] theorem fill_cause (n : Nat) (s : State) : (fill n s).cause = s.cause := by unfold fill; split <;> rfl
@[simp] theorem fill_dconly (n : Nat) (s : State) : (fill n s).dconly = s.dconly := by unfold fill; split <;> rfl
@[simp] theorem fill_blkvalid (n : Nat) (s : State) : (fill n s).blkvalid = s.blkvalid := by unfold fill; split <;> rfl
@[simp] theorem fill_result (n : Nat) (s : State) : (fill n s).result = s.result := by unfold fill; split <;> rfl
@[simp] theorem fill_phase (n : Nat) (s : State) : (fill n s).phase = s.phase := by unfold fill; split <;> rfl
@[simp] theorem fill_zz (n : Nat) (s : State) : (fill n s).zz = s.zz := by unfold fill; split <;> rfl
@[simp] theorem fill_run (n : Nat) (s : State) : (fill n s).run = s.run := by unfold fill; split <;> rfl
@[simp] theorem fill_inbox (n : Nat) (s : State) : (fill n s).inbox = s.inbox := by unfold fill; split <;> rfl
@[simp] theorem fill_rdata (n : Nat) (s : State) : (fill n s).rdata = s.rdata := by unfold fill; split <;> rfl

@[simp] theorem skip_dgm (n : Nat) (s : State) : (skip n s).dgm = s.dgm := fill_dgm n s
@[simp] theorem skip_len (n : Nat) (s : State) : (skip n s).len = s.len := fill_len n s
@[simp] theorem skip_blk (n : Nat) (s : State) : (skip n s).blk = s.blk := fill_blk n s
@[simp] theorem skip_err (n : Nat) (s : State) : (skip n s).err = s.err := fill_err n s
@[simp] theorem skip_cause (n : Nat) (s : State) : (skip n s).cause = s.cause := fill_cause n s
@[simp] theorem skip_dconly (n : Nat) (s : State) : (skip n s).dconly = s.dconly := fill_dconly n s
@[simp] theorem skip_blkvalid (n : Nat) (s : State) : (skip n s).blkvalid = s.blkvalid := fill_blkvalid n s
@[simp] theorem skip_result (n : Nat) (s : State) : (skip n s).result = s.result := fill_result n s
@[simp] theorem skip_phase (n : Nat) (s : State) : (skip n s).phase = s.phase := fill_phase n s
@[simp] theorem skip_zz (n : Nat) (s : State) : (skip n s).zz = s.zz := fill_zz n s
@[simp] theorem skip_run (n : Nat) (s : State) : (skip n s).run = s.run := fill_run n s
@[simp] theorem skip_inbox (n : Nat) (s : State) : (skip n s).inbox = s.inbox := fill_inbox n s
@[simp] theorem skip_rdata (n : Nat) (s : State) : (skip n s).rdata = s.rdata := fill_rdata n s

end Sys2Proof.Machine
end

