-- ==== Sys2Proof/Laws/Cursor.lean ====
section
/-! SUPPORT. The cursor: what a refill, a fill and a skip do to the three registers, and the stream as numbers. -/

namespace Sys2Proof.Machine

/-- The three cursor registers are all a fill changes. -/
theorem fill_frame (n : Nat) (s : State) : fill n s = withCursor s (fill n s) := by
  unfold fill withCursor
  split <;> rfl

/-- The three cursor registers are all a skip changes. -/
theorem skip_frame (n : Nat) (s : State) : skip n s = withCursor s (skip n s) := by
  simp only [skip, consume, withCursor]
  rw [fill_frame n s]
  rfl

/-- With n bits fetched, no refill happens. -/
theorem fill_of_le {n : Nat} {s : State} (h : n ≤ s.cnt.toNat) : fill n s = s := by
  simp [fill, Nat.not_lt.mpr h]

/-- With fewer than n bits fetched, one refill happens. -/
theorem fill_of_lt {n : Nat} {s : State} (h : s.cnt.toNat < n) : fill n s = refill s := by
  simp [fill, h]

/-- A refill with at most 31 bits fetched adds 32 (R110, R115). -/
theorem refill_cnt_toNat {s : State} (h : s.cnt.toNat ≤ 31) : (refill s).cnt.toNat = s.cnt.toNat + 32 := by
  simp only [refill_cnt, BitVec.toNat_ofNat]
  omega

/-- After a fill of n at least n bits are fetched (R111). -/
theorem le_fill_cnt {n : Nat} (hn : n ≤ 32) (s : State) : n ≤ (fill n s).cnt.toNat := by
  by_cases h : n ≤ s.cnt.toNat
  · rwa [fill_of_le h]
  · rw [fill_of_lt (by omega), refill_cnt_toNat (by omega)]
    omega

/-- A fill never lowers the count. -/
theorem cnt_le_fill_cnt {n : Nat} (hn : n ≤ 32) (s : State) : s.cnt.toNat ≤ (fill n s).cnt.toNat := by
  by_cases h : n ≤ s.cnt.toNat
  · rw [fill_of_le h]
  · rw [fill_of_lt (by omega), refill_cnt_toNat (by omega)]
    omega

/-- A fill twice is a fill once, for a count no greater. -/
theorem fill_fill {m n : Nat} (h : m ≤ n) (hn : n ≤ 32) (s : State) : fill m (fill n s) = fill n s :=
  fill_of_le (h.trans (le_fill_cnt hn s))

/-- A refill word is a 32-bit number (R55). -/
theorem memRead4_lt (s : State) (a : Nat) : memRead4 s a < 2 ^ 32 := by
  have h0 := (dgmByte s a).isLt
  have h1 := (dgmByte s (a + 1)).isLt
  have h2 := (dgmByte s (a + 2)).isLt
  have h3 := (dgmByte s (a + 3)).isLt
  simp only [memRead4]
  omega

/-- Beyond the end of the datagram every refill word is zero (R52, R124). -/
theorem memRead4_of_len_le {s : State} {a : Nat} (h : s.len.toNat ≤ a) : memRead4 s a = 0 := by
  simp only [memRead4, dgmByte]
  rw [if_neg (by omega), if_neg (by omega), if_neg (by omega), if_neg (by omega)]
  rfl

/-- A refill with at most 31 bits fetched loses none (R115). -/
theorem refill_acc_toNat {s : State} (hc : s.cnt.toNat ≤ 31) (ha : s.acc.toNat < 2 ^ s.cnt.toNat) :
    (refill s).acc.toNat = s.acc.toNat * 2 ^ 32 + memRead4 s s.offset.toNat := by
  have h1 : 2 ^ s.cnt.toNat ≤ 2 ^ 31 := Nat.pow_le_pow_right (by decide) hc
  have h2 := memRead4_lt s s.offset.toNat
  simp only [refill_acc, BitVec.toNat_ofNat]
  exact Nat.mod_eq_of_lt (by omega)

/-- A refill's offset (R110). -/
theorem refill_offset_toNat (s : State) : (refill s).offset.toNat = min (s.offset.toNat + 4) Config.offsetSat := by
  simp only [refill_offset, BitVec.toNat_ofNat]
  exact Nat.mod_eq_of_lt (by unfold Config.offsetSat; omega)

/-- n consumed bits lower the count by n (R112). -/
theorem consume_cnt_toNat (n : Nat) (s : State) : (consume n s).cnt.toNat = s.cnt.toNat - n := by
  have := s.cnt.isLt
  simp only [consume_cnt, BitVec.toNat_ofNat]
  omega

/-- What stays in the accumulator (R112). -/
theorem consume_acc_toNat (n : Nat) (s : State) :
    (consume n s).acc.toNat = s.acc.toNat % 2 ^ (s.cnt.toNat - n) := by
  simp only [consume_acc, BitVec.toNat_ofNat]
  exact Nat.mod_eq_of_lt (lt_of_le_of_lt (Nat.mod_le _ _) s.acc.isLt)

-- The stream

/-- n stream bits make an n-bit number. -/
theorem streamVal_lt (s : State) (p n : Nat) : streamVal s p n < 2 ^ n := by
  induction n with
  | zero => simp [streamVal]
  | succ n ih =>
    have := Bool.toNat_le (streamBit s (p + n))
    simp only [streamVal, pow_succ]
    omega

/-- The bits from p on, split after m of them (R56). -/
theorem streamVal_add (s : State) (p m n : Nat) :
    streamVal s p (m + n) = streamVal s p m * 2 ^ n + streamVal s (p + m) n := by
  induction n with
  | zero => simp [streamVal]
  | succ n ih =>
    rw [← Nat.add_assoc, streamVal, ih, streamVal, pow_succ, Nat.add_assoc p m n]
    ring

/-- The stream depends on the datagram alone. -/
theorem streamVal_congr {s t : State} (hd : s.dgm = t.dgm) (hl : s.len = t.len) (p n : Nat) :
    streamVal s p n = streamVal t p n := by
  have hb : ∀ k, streamBit s k = streamBit t k := by
    intro k
    simp [streamBit, dgmByte, dgmCell, hd, hl]
  induction n with
  | zero => rfl
  | succ n ih => simp [streamVal, ih, hb]

/-- The position depends on the datagram and the cursor registers alone. -/
theorem AtPos_congr {s t : State} {P : Nat} (h : AtPos s P) (hd : t.dgm = s.dgm) (hl : t.len = s.len)
    (ho : t.offset = s.offset) (ha : t.acc = s.acc) (hc : t.cnt = s.cnt) : AtPos t P := by
  unfold AtPos
  rw [streamVal_congr hd hl, ho, ha, hc]
  exact h

/-- Eight stream bits from a byte's first on are that byte (R53, R54). -/
theorem streamVal_byte (s : State) (a : Nat) : streamVal s (8 * a) 8 = (dgmByte s a).toNat := by
  have hd : ∀ i, i < 8 → (8 * a + i) / 8 = a := fun i hi => by omega
  have hm : ∀ i, i < 8 → (8 * a + i) % 8 = i := fun i hi => by omega
  simp only [streamVal, streamBit, hd _ (show 0 < 8 by decide), hd _ (show 1 < 8 by decide),
    hd _ (show 2 < 8 by decide), hd _ (show 3 < 8 by decide), hd _ (show 4 < 8 by decide),
    hd _ (show 5 < 8 by decide), hd _ (show 6 < 8 by decide), hd _ (show 7 < 8 by decide),
    hm _ (show 0 < 8 by decide), hm _ (show 1 < 8 by decide), hm _ (show 2 < 8 by decide),
    hm _ (show 3 < 8 by decide), hm _ (show 4 < 8 by decide), hm _ (show 5 < 8 by decide),
    hm _ (show 6 < 8 by decide), hm _ (show 7 < 8 by decide)]
  generalize dgmByte s a = b
  revert b
  decide

/-- Thirty-two stream bits from a byte's first on are the refill word at it (R55). -/
theorem streamVal_word (s : State) (a : Nat) : streamVal s (8 * a) 32 = memRead4 s a := by
  have h1 := streamVal_byte s (a + 1)
  have h2 := streamVal_byte s (a + 2)
  have h3 := streamVal_byte s (a + 3)
  rw [show (32 : Nat) = 8 + (8 + (8 + 8)) from rfl, streamVal_add, streamVal_add, streamVal_add, streamVal_byte,
    show 8 * a + 8 = 8 * (a + 1) by ring, h1, show 8 * (a + 1) + 8 = 8 * (a + 2) by ring, h2,
    show 8 * (a + 2) + 8 = 8 * (a + 3) by ring, h3, memRead4]
  ring

/-- Beyond the end of the datagram the stream is zero (R54). -/
theorem streamVal_past_end {s : State} {p : Nat} (h : 8 * s.len.toNat ≤ p) (n : Nat) : streamVal s p n = 0 := by
  induction n with
  | zero => rfl
  | succ n ih =>
    have : ¬(p + n) / 8 < s.len.toNat := by omega
    simp [streamVal, ih, streamBit, dgmByte, this]

end Sys2Proof.Machine
end

