-- ==== Sys2Proof/Laws/Block.lean ====
section
/-! SUPPORT. What GETBLK's shared operations can do, case by case. -/

namespace Sys2Proof.Machine

/-- A run symbol either leaves its run for the level code, its bits consumed, or ends the block with BAD_RUN and the
window as it was (R173, R177). -/
theorem runSymbol_cases (e : Config.RunEntry) (s : State) :
    (e.valid = true ∧ runSymbol e s = awaitLevel e.run (skip e.nbits (fill 12 s))) ∨
      (e.valid = false ∧ runSymbol e s = failGetblk .badRun (fill 12 s)) := by
  cases h : e.valid <;> simp [runSymbol, h]

/-- A value is stored at zig-zag index i + run, or the block ends with OVERRUN and nothing stored (R175, R176). -/
theorem storeLevel_cases (T : Config.Tables) (v : Int) (s : State) :
    (∃ h : s.zz + s.run < 64, storeLevel T v s =
        awaitRun (s.zz + s.run + 1)
          (writeBlk (T.zigzag ⟨s.zz + s.run, h⟩) (dequant v (T.quant (T.zigzag ⟨s.zz + s.run, h⟩))) s)) ∨
      (63 < s.zz + s.run ∧ storeLevel T v s = failGetblk .overrun s) := by
  by_cases h : s.zz + s.run ≤ 63
  · exact .inl ⟨by omega, by simp [storeLevel, h]⟩
  · exact .inr ⟨by omega, by simp [storeLevel, h]⟩

/-- A level symbol ends the block with BAD_LEVEL and the window as it was, or its bits are consumed and then the block
ends without error at an end-of-block code, or its value is stored or overruns (R174, R177, R198). -/
theorem levSymbol_cases (T : Config.Tables) (e : Config.LevEntry) (s : State) :
    (e.valid = false ∧ levSymbol T e s = failGetblk .badLevel (fill 15 s)) ∨
      (e.valid = true ∧ e.eob = true ∧ levSymbol T e s = finishGetblk (skip e.nbits (fill 15 s))) ∨
      (e.valid = true ∧ e.eob = false ∧ levSymbol T e s = storeLevel T e.value (skip e.nbits (fill 15 s))) := by
  cases hv : e.valid <;> cases he : e.eob <;> simp [levSymbol, hv, he]

/-- The DC field's symbol: BLK[0], then the first pair or the end of the block (R160, R172). -/
theorem dcSymbol_cases (T : Config.Tables) (d : BitVec 10) (s : State) :
    (s.dconly = false ∧ dcSymbol T d s = awaitRun 1 (writeBlk 0 (dequant d.toNat (T.quant 0)) (skip 10 s))) ∨
      (s.dconly = true ∧ dcSymbol T d s = finishGetblk (writeBlk 0 (dequant d.toNat (T.quant 0)) (skip 10 s))) := by
  cases h : s.dconly <;> simp [dcSymbol, hasCoefficients, h]

/-- An iteration of the pair loop: the run symbol, and where it is a run, the level symbol, and where that stores, the
rest of the loop (R170). -/
theorem pairLoop_succ (T : Config.Tables) (fuel : Nat) (s : State) :
    pairLoop T (fuel + 1) s =
      if (runSymbol (T.runTab (runWindow s)) s).phase = .level then
        if (levSymbol T (T.levTab (levWindow (runSymbol (T.runTab (runWindow s)) s)))
            (runSymbol (T.runTab (runWindow s)) s)).phase = .run then
          pairLoop T fuel (levSymbol T (T.levTab (levWindow (runSymbol (T.runTab (runWindow s)) s)))
            (runSymbol (T.runTab (runWindow s)) s))
        else levSymbol T (T.levTab (levWindow (runSymbol (T.runTab (runWindow s)) s)))
          (runSymbol (T.runTab (runWindow s)) s)
      else runSymbol (T.runTab (runWindow s)) s := rfl

/-- The pair loop, packaged once: where I holds at every run position the loop reaches and each way a pair can end the
block gives Q, the loop ends in Q. Fuel 65 - i is enough, since each storing pair raises i (R179). -/
theorem pairLoop_ind (T : Config.Tables) (I Q : State → Prop)
    (badRun : ∀ s e, I s → e = T.runTab (runWindow s) → e.valid = false → Q (failGetblk .badRun (fill 12 s)))
    (pair : ∀ s e t f, I s → e = T.runTab (runWindow s) → e.valid = true →
      t = awaitLevel e.run (skip e.nbits (fill 12 s)) → f = T.levTab (levWindow t) →
      (f.valid = false → Q (failGetblk .badLevel (fill 15 t))) ∧
      (f.valid = true → f.eob = true → Q (finishGetblk (skip f.nbits (fill 15 t)))) ∧
      (f.valid = true → f.eob = false → 63 < s.zz + e.run → Q (failGetblk .overrun (skip f.nbits (fill 15 t)))) ∧
      (f.valid = true → f.eob = false → ∀ h : s.zz + e.run < 64,
        I (awaitRun (s.zz + e.run + 1) (writeBlk (T.zigzag ⟨s.zz + e.run, h⟩)
          (dequant f.value (T.quant (T.zigzag ⟨s.zz + e.run, h⟩))) (skip f.nbits (fill 15 t))))))
    (fuel : Nat) (s : State) (hI : I s) (hz : s.zz ≤ 64) (hf : 65 ≤ fuel + s.zz) : Q (pairLoop T fuel s) := by
  induction fuel generalizing s with
  | zero => omega
  | succ fuel ih =>
    rw [pairLoop_succ]
    rcases runSymbol_cases (T.runTab (runWindow s)) s with ⟨hv, he⟩ | ⟨hv, he⟩
    · rw [he]
      obtain ⟨hBad, hEnd, hOver, hStore⟩ := pair s _ _ _ hI rfl hv rfl rfl
      generalize ht : awaitLevel (T.runTab (runWindow s)).run (skip (T.runTab (runWindow s)).nbits (fill 12 s)) = t at *
      rw [if_pos (by rw [← ht]; rfl)]
      rcases levSymbol_cases T (T.levTab (levWindow t)) t with ⟨hv2, he2⟩ | ⟨hv2, hb, he2⟩ | ⟨hv2, hb, he2⟩
      · rw [he2, if_neg (by simp [failGetblk])]
        exact hBad hv2
      · rw [he2, if_neg (by simp [finishGetblk])]
        exact hEnd hv2 hb
      · rw [he2]
        have hzz : (skip (T.levTab (levWindow t)).nbits (fill 15 t)).zz = s.zz := by simp [← ht]
        have hrun : (skip (T.levTab (levWindow t)).nbits (fill 15 t)).run = (T.runTab (runWindow s)).run := by
          simp [← ht]
        rcases storeLevel_cases T (T.levTab (levWindow t)).value (skip (T.levTab (levWindow t)).nbits (fill 15 t)) with
          ⟨hh, he3⟩ | ⟨hh, he3⟩
        · rw [he3, if_pos (by simp [awaitRun])]
          rw [hzz, hrun] at hh
          simp only [hzz, hrun]
          exact ih _ (hStore hv2 hb hh) (by simp [awaitRun]; omega) (by simp [awaitRun]; omega)
        · rw [he3, if_neg (by simp [failGetblk])]
          rw [hzz, hrun] at hh
          exact hOver hv2 hb hh
    · rw [he, if_neg (by simp [failGetblk])]
      exact badRun s _ hI rfl hv

/-- GETBLK, packaged once: `pairLoop_ind` with its start, the DC field (R170, R172). -/
theorem getblk_ind (T : Config.Tables) (hc : Bool) (s : State) (I Q : State → Prop)
    (dcOnly : hc = false → Q (finishGetblk (writeBlk 0 (dequant (dcWindow (startGetblk hc s)).toNat (T.quant 0))
      (skip 10 (startGetblk hc s)))))
    (first : hc = true → I (awaitRun 1 (writeBlk 0 (dequant (dcWindow (startGetblk hc s)).toNat (T.quant 0))
      (skip 10 (startGetblk hc s)))))
    (badRun : ∀ s e, I s → e = T.runTab (runWindow s) → e.valid = false → Q (failGetblk .badRun (fill 12 s)))
    (pair : ∀ s e t f, I s → e = T.runTab (runWindow s) → e.valid = true →
      t = awaitLevel e.run (skip e.nbits (fill 12 s)) → f = T.levTab (levWindow t) →
      (f.valid = false → Q (failGetblk .badLevel (fill 15 t))) ∧
      (f.valid = true → f.eob = true → Q (finishGetblk (skip f.nbits (fill 15 t)))) ∧
      (f.valid = true → f.eob = false → 63 < s.zz + e.run → Q (failGetblk .overrun (skip f.nbits (fill 15 t)))) ∧
      (f.valid = true → f.eob = false → ∀ h : s.zz + e.run < 64,
        I (awaitRun (s.zz + e.run + 1) (writeBlk (T.zigzag ⟨s.zz + e.run, h⟩)
          (dequant f.value (T.quant (T.zigzag ⟨s.zz + e.run, h⟩))) (skip f.nbits (fill 15 t)))))) :
    Q (getblk T hc s) := by
  unfold getblk
  simp only
  rcases dcSymbol_cases T (dcWindow (startGetblk hc s)) (startGetblk hc s) with ⟨h, e⟩ | ⟨h, e⟩
  · rw [e, if_pos (by simp [awaitRun])]
    exact pairLoop_ind T I Q badRun pair 64 _ (first (by simpa [startGetblk] using h)) (by simp [awaitRun])
      (by simp [awaitRun])
  · rw [e, if_neg (by simp [finishGetblk])]
    exact dcOnly (by simpa [startGetblk] using h)

end Sys2Proof.Machine
end

