-- ==== Sys2Proof/Laws/Memory.lean ====
section
/-! SUPPORT. The datagram memory: a write is read back, leaves every other address alone, and keeps the canonical form. -/

namespace Sys2Proof.Machine

/-- A read after a write gives the byte written at its address and what was there before at any other. -/
theorem memLookup_memWrite (m : Memory) (a : Nat) (b : Byte) (k : Nat) :
    memLookup (memWrite m a b) k = if k = a then some b else memLookup m k := by
  induction m with
  | nil => simp [memWrite, memLookup, eq_comm]
  | cons c rest ih =>
    obtain ⟨x, v⟩ := c
    by_cases h1 : a < x
    · simp [memWrite, h1, memLookup, eq_comm]
    by_cases h2 : a = x
    · subst h2
      by_cases hk : k = a
      · simp [memWrite, memLookup, hk]
      · simp [memWrite, memLookup, hk, Ne.symm hk]
    · by_cases hx : x = k
      · subst hx
        simp [memWrite, h1, h2, memLookup, Ne.symm h2]
      · simp [memWrite, h1, h2, memLookup, hx, ih]

/-- A write keeps the canonical form. -/
theorem memWfFrom_memWrite (m : Memory) (a : Nat) (b : Byte) (lo : Nat) (h : memWfFrom lo m = true) (hlo : lo ≤ a)
    (ha : a < 65536) : memWfFrom lo (memWrite m a b) = true := by
  induction m generalizing lo with
  | nil => simp [memWrite, memWfFrom, hlo, ha]
  | cons c rest ih =>
    obtain ⟨x, v⟩ := c
    simp only [memWfFrom, Bool.and_eq_true, decide_eq_true_eq] at h
    unfold memWrite
    split_ifs with h1 h2
    · simp only [memWfFrom, Bool.and_eq_true, decide_eq_true_eq]
      exact ⟨⟨hlo, ha⟩, ⟨by omega, h.1.2⟩, h.2⟩
    · subst h2
      simp only [memWfFrom, Bool.and_eq_true, decide_eq_true_eq]
      exact ⟨⟨hlo, ha⟩, h.2⟩
    · simp only [memWfFrom, Bool.and_eq_true, decide_eq_true_eq]
      exact ⟨h.1, ih (x + 1) h.2 (by omega)⟩

/-- The host's datagram write keeps the canonical form. -/
theorem memWf_hostWriteDgm (a : BitVec 16) (b : Byte) (s : State) (h : memWf s.dgm = true) :
    memWf (hostWriteDgm a b s).dgm = true :=
  memWfFrom_memWrite s.dgm a.toNat b 0 h (Nat.zero_le _) (by have := a.isLt; omega)

/-- Reset memory is canonical. -/
theorem memWf_reset : memWf State.reset.dgm = true := rfl

end Sys2Proof.Machine
end

