-- ==== Sys2Proof/Laws/PerInstr.lean ====
section
/-! SUPPORT. A family of statements made per instruction: a symbol's pattern fits its own length, and no pattern is
longer than the level window's 15 bits (R84, R92). -/

namespace Sys2Proof.Laws.PatternFits

/-- The pattern's value fits its length, and the length fits a window. -/
def Statement (i : Instr) : Prop := (symbolCode i).2 < 2 ^ (symbolCode i).1 ∧ (symbolCode i).1 ≤ 15

/-- The value of a run pattern: a one and k extra bits. -/
theorem extraBits_lt {k : Nat} (x : BitVec k) (n : Nat) (h : 2 * 2 ^ k ≤ 2 ^ n) : 2 ^ k + x.toNat < 2 ^ n := by
  have := x.isLt
  omega

/-- The value of a level pattern: a one, k extra bits and the sign bit. -/
theorem signed_lt {k : Nat} (x : BitVec k) (s : Bool) (n : Nat) (h : 2 ^ k * 4 ≤ 2 ^ n) :
    (2 ^ k + x.toNat) * 2 + signBit s < 2 ^ n := by
  have := x.isLt
  have : signBit s ≤ 1 := by cases s <;> decide
  omega

theorem nop : Statement .nop := by simp [Statement, symbolCode]
theorem bind (len : BitVec 16) : Statement (.bind len) := by simp [Statement, symbolCode]
theorem read (n : BitVec 6) : Statement (.read n) := by simp [Statement, symbolCode]
theorem peek (n : BitVec 6) : Statement (.peek n) := by simp [Statement, symbolCode]
theorem align : Statement .align := by simp [Statement, symbolCode]
theorem getblk (hc : Bool) : Statement (.getblk hc) := by simp [Statement, symbolCode]
theorem dc (d : BitVec 10) : Statement (.dc d) := ⟨d.isLt, by simp [symbolCode]⟩
theorem run0 : Statement .run0 := by simp [Statement, symbolCode]
theorem run1 : Statement .run1 := by simp [Statement, symbolCode]
theorem run2to3 (x : BitVec 1) : Statement (.run2to3 x) := ⟨extraBits_lt x 4 (by decide), by simp [symbolCode]⟩
theorem run4to7 (x : BitVec 2) : Statement (.run4to7 x) := ⟨extraBits_lt x 6 (by decide), by simp [symbolCode]⟩
theorem run8to15 (x : BitVec 3) : Statement (.run8to15 x) := ⟨extraBits_lt x 8 (by decide), by simp [symbolCode]⟩
theorem run16to31 (x : BitVec 4) : Statement (.run16to31 x) := ⟨extraBits_lt x 10 (by decide), by simp [symbolCode]⟩
theorem run32to63 (x : BitVec 5) : Statement (.run32to63 x) := ⟨extraBits_lt x 12 (by decide), by simp [symbolCode]⟩
theorem runInvalid : Statement .runInvalid := by simp [Statement, symbolCode]
theorem lev1 (s : Bool) : Statement (.lev1 s) := by cases s <;> simp [Statement, symbolCode, signBit]
theorem eob : Statement .eob := by simp [Statement, symbolCode]
theorem lev2to3 (x : BitVec 1) (s : Bool) : Statement (.lev2to3 x s) := ⟨signed_lt x s 5 (by decide), by simp [symbolCode]⟩
theorem lev4to7 (x : BitVec 2) (s : Bool) : Statement (.lev4to7 x s) := ⟨signed_lt x s 7 (by decide), by simp [symbolCode]⟩
theorem lev8to15 (x : BitVec 3) (s : Bool) : Statement (.lev8to15 x s) := ⟨signed_lt x s 9 (by decide), by simp [symbolCode]⟩
theorem lev16to31 (x : BitVec 4) (s : Bool) : Statement (.lev16to31 x s) := ⟨signed_lt x s 11 (by decide), by simp [symbolCode]⟩
theorem lev32to63 (x : BitVec 5) (s : Bool) : Statement (.lev32to63 x s) := ⟨signed_lt x s 13 (by decide), by simp [symbolCode]⟩
theorem lev64to127 (x : BitVec 6) (s : Bool) : Statement (.lev64to127 x s) := ⟨signed_lt x s 15 (by decide), by simp [symbolCode]⟩
theorem levInvalid : Statement .levInvalid := by simp [Statement, symbolCode]

end Sys2Proof.Laws.PatternFits
end

