-- ==== Sys2Proof/Laws/Step.lean ====
section
/-! SUPPORT. What a step can look at: whether a symbol is fetched, whether a reset waits, and what a host action can do,
however what is placed is run. -/

namespace Sys2Proof.Machine

/-- A symbol is fetched exactly while a GETBLK runs (R92). -/
theorem fetchSymbol_eq_none (s : State) : fetchSymbol s = none ↔ s.phase = .idle := by
  unfold fetchSymbol
  split <;> simp_all

/-- A reset waits exactly where it is what waits first. -/
theorem resetWaiting_eq_some (s : State) (rest : List HostAction) :
    resetWaiting s = some rest ↔ s.inbox = .reset :: rest := by
  unfold resetWaiting
  split <;> simp_all

/-- A host action is a reset, a datagram write, a read of a register into rdata, nothing at all, a command word run, or
it is refused. -/
theorem hostActionBy_cases (run : Runner) (a : HostAction) (s : State) :
    (a = .reset ∧ hostActionBy run a s = .next (hostReset s)) ∨
      (∃ x b, hostActionBy run a s = .next (hostWriteDgm x b s)) ∨
      (∃ v, hostActionBy run a s = .next { s with rdata := v }) ∨
      hostActionBy run a s = .next s ∨
      (∃ cw, (a = .cmd cw ∨ a = .writeReg 0 cw) ∧ hostActionBy run a s = run (.cmd cw) s) ∨
      hostActionBy run a s = .refused .unalignedRegister := by
  cases a with
  | reset => exact .inl ⟨rfl, rfl⟩
  | writeDgm x b => exact .inr (.inl ⟨x, b, rfl⟩)
  | cmd cw => exact .inr (.inr (.inr (.inr (.inl ⟨cw, .inl rfl, rfl⟩))))
  | readReg addr =>
    by_cases h : accessAligned addr = true
    · exact .inr (.inr (.inl ⟨readReg s addr, by simp [hostActionBy, hostReadReg, h]⟩))
    · exact .inr (.inr (.inr (.inr (.inr (by simp [hostActionBy, hostReadReg, h])))))
  | writeReg addr data =>
    by_cases hw : dgmWindow ≤ addr.toNat
    · exact .inr (.inl ⟨_, _, by simp only [hostActionBy, hostWriteRegBy]; rw [if_pos hw]⟩)
    by_cases h : accessAligned addr = true
    · by_cases h0 : addr = 0
      · subst h0
        exact .inr (.inr (.inr (.inr (.inl ⟨data,
          .inr rfl, by simp only [hostActionBy, hostWriteRegBy]; rw [if_neg hw, if_pos h, if_pos trivial]⟩))))
      · exact .inr (.inr (.inr (.inl
          (by simp only [hostActionBy, hostWriteRegBy]; rw [if_neg hw, if_pos h, if_neg h0]))))
    · exact .inr (.inr (.inr (.inr (.inr (by simp [hostActionBy, hostWriteRegBy, hw, h])))))

end Sys2Proof.Machine
end

