-- ==== Sys2Proof/Tests/Slice0.lean ====
section
/-! SUPPORT. The model's own tests. Expected values are the spec's vectors (95_test_vectors.md) or are written out from
the encodings of 30_encoding.md and the entries of 41_symbols.md. -/

namespace Sys2Proof.Tests

open Sys2Proof.Machine

/-- The state an outcome gives, or the given one. -/
def after (o : Host.Outcome State Fault Refusal) (d : State) : State :=
  match o with
  | .next t => t
  | .fault _ => d
  | .refused _ => d

/-- Reset, the bytes written from address 0 on, then bound; BLK zero where its power-up values do not matter. -/
def boundTo (bytes : List Byte) : State :=
  { State.reset with
    dgm := (List.range bytes.length).zip bytes, len := BitVec.ofNat 16 bytes.length, blk := zeroBlk }

/-- V1's datagram. -/
def v1 : State := boundTo [0xA5, 0x3C, 0xF0, 0x0F, 0x81, 0x7E]

/-- The state one instruction leaves; the given one where it does not complete. -/
def run1 (i : Instr) (s : State) : State := after (exec i s) s

-- WellFormed refuses what R80 calls illegal; a wrong command is illegal at decode too (R83)
theorem test_read33_ill_formed : (Instr.read 33).wellFormed = false := by decide
theorem test_peek33_ill_formed : (Instr.peek 33).wellFormed = false := by decide
theorem test_read32_well_formed : (Instr.read 32).wellFormed = true := by decide

-- Decoding: one word a constructor, written out from R80's table (op, rsv, arg) and from the patterns of R86, R87
theorem test_decode_nop : decodeCmd 0b0000_000000000000_0000000000000000#32 = .ok .nop := by decide
theorem test_decode_bind : decodeCmd 0b0001_000000000000_1000000000000110#32 = .ok (.bind 0x8006) := by decide
theorem test_decode_read : decodeCmd 0b0010_000000000000_0000000000_100000#32 = .ok (.read 32) := by decide
theorem test_decode_peek : decodeCmd 0b0011_000000000000_0000000000_001100#32 = .ok (.peek 12) := by decide
theorem test_decode_align : decodeCmd 0b0100_000000000000_0000000000000000#32 = .ok .align := by decide
theorem test_decode_getblk0 : decodeCmd 0b0101_000000000000_000000000000000_0#32 = .ok (.getblk false) := by decide
theorem test_decode_getblk1 : decodeCmd 0b0101_000000000000_000000000000000_1#32 = .ok (.getblk true) := by decide
theorem test_decode_dc : decode (.dc 0b0001100100#10) = .ok (.dc 100) := by decide
theorem test_decode_run0 : decodeRun 0b1_01010101010#12 = .run0 := by decide
theorem test_decode_run1 : decodeRun 0b01_1010101010#12 = .run1 := by decide
theorem test_decode_run2to3 : decodeRun 0b001_1_01010101#12 = .run2to3 1 := by decide
theorem test_decode_run4to7 : decodeRun 0b0001_10_111111#12 = .run4to7 2 := by decide
theorem test_decode_run8to15 : decodeRun 0b00001_011_0000#12 = .run8to15 3 := by decide
theorem test_decode_run16to31 : decodeRun 0b000001_1011_00#12 = .run16to31 11 := by decide
theorem test_decode_run32to63 : decodeRun 0b0000001_10010#12 = .run32to63 18 := by decide
theorem test_decode_runInvalid : decodeRun 0b0000000_11111#12 = .runInvalid := by decide
theorem test_decode_lev1 : decodeLev 0b1_1_0000000000000#15 = .lev1 true := by decide
theorem test_decode_eob : decodeLev 0b01_1111111111111#15 = .eob := by decide
theorem test_decode_lev2to3 : decodeLev 0b001_1_0_1111111111#15 = .lev2to3 1 false := by decide
theorem test_decode_lev4to7 : decodeLev 0b0001_01_1_00000000#15 = .lev4to7 1 true := by decide
theorem test_decode_lev8to15 : decodeLev 0b00001_110_1_000000#15 = .lev8to15 6 true := by decide
theorem test_decode_lev16to31 : decodeLev 0b000001_0101_1_0000#15 = .lev16to31 5 true := by decide
theorem test_decode_lev32to63 : decodeLev 0b0000001_11110_0_11#15 = .lev32to63 30 false := by decide
theorem test_decode_lev64to127 : decodeLev 0b00000001_011010_1#15 = .lev64to127 26 true := by decide
theorem test_decode_levInvalid : decodeLev 0b00000000_1111111#15 = .levInvalid := by decide

-- E2: illegal words, with R83's reason
theorem test_illegal_op6 : decodeCmd 0x60000000 = .error .reservedOp := by decide
theorem test_illegal_rsv : decodeCmd 0x10010006 = .error .reservedBits := by decide
theorem test_illegal_read33 : decodeCmd 0x20000021 = .error .countTooLarge := by decide
theorem test_illegal_read_arg : decodeCmd 0x20000040 = .error .argNotZero := by decide
theorem test_illegal_getblk2 : decodeCmd 0x50000002 = .error .argNotZero := by decide

-- T1, T2: table samples
theorem test_runtab_6AA : tables.runTab 0x6AA = ⟨true, 2, 1⟩ := by decide
theorem test_runtab_06C : tables.runTab 0x06C = ⟨true, 10, 27⟩ := by decide
theorem test_runtab_01F : tables.runTab 0x01F = ⟨false, 0, 0⟩ := by decide
theorem test_levtab_6000 : tables.levTab 0x6000 = ⟨true, 2, -1, false⟩ := by decide
theorem test_levtab_2B0 : tables.levTab 0x02B0 = ⟨true, 11, -21, false⟩ := by decide
theorem test_levtab_FF : tables.levTab 0x00FF = ⟨true, 15, -127, false⟩ := by decide
theorem test_levtab_3FFF : tables.levTab 0x3FFF = ⟨true, 2, 0, true⟩ := by decide
-- T4: EncRun(20), EncLev(-100)
theorem test_encRun20 : symbolCode (runSymbolOf 20) = (10, 0b0000010100) := by decide
theorem test_encLevNeg100 : symbolCode (levSymbolOf (-100)) = (15, 0b000000011001001) := by decide
-- T5
theorem test_zigzag : [zigzag 2, zigzag 10, zigzag 41] = [8, 32, 22] := by decide
theorem test_quant : [quant 0, quant 8, quant 22, quant 63] = [3, 5, 19, 31] := by decide

-- V1, V5, V7: the cursor commands
theorem test_nop : run1 .nop v1 = v1 := by decide
theorem test_bind_rewinds : (run1 (.bind 6) (run1 (.read 3) v1)).cnt = 0 := by decide
theorem test_bind_clears_err : (run1 (.bind 6) (run1 (.read 40) v1)).err = false := by decide
theorem test_read3 : ((run1 (.read 3) v1).result, (run1 (.read 3) v1).acc) = (5, 0x053CF00F) := by decide
theorem test_read32_past_end :
    (run1 (.read 32) (boundTo [0x01, 0x02, 0x03])).result = 0x01020300 := by decide
theorem test_peek32_fullest :
    (run1 (.peek 32) (run1 (.read 1) (boundTo [1, 2, 3, 4, 5, 6, 7, 8]))).acc = 0x0102030405060708 := by decide
theorem test_peek32_keeps_cnt : (run1 (.peek 32) (run1 (.read 1) v1)).cnt = 63 := by decide
theorem test_align_skips_6 : (run1 .align (run1 (.read 18) v1)).cnt = 8 := by decide
theorem test_align_on_boundary : run1 .align v1 = v1 := by decide
theorem test_offset_saturates : (run1 (.read 32) { v1 with offset := 131072 }).offset = 131072 := by decide

-- G1, G2, G3a, G3d, G4, G5, G11: GETBLK
theorem test_getblk_dc_only : (run1 (.getblk false) (boundTo [0x19, 0x00])).blk[0] = 300 := by decide
theorem test_getblk_g2 :
    ((run1 (.getblk true) (boundTo [0x06, 0x67, 0x10, 0x74, 0x5D])).blk.toList.take 11).map BitVec.toInt
      = [75, -15, 0, 63, 0, 0, 0, 0, 0, 0, -45] := by decide
theorem test_getblk_overrun :
    statusWord (run1 (.getblk true) (boundTo [0x00, 0x40, 0xFE, 0xA0])) = 0x11 := by decide
theorem test_getblk_eob_before_overrun :
    statusWord (run1 (.getblk true) (boundTo [0x00, 0x40, 0xFD])) = 0x04 := by decide
theorem test_getblk_bad_run_acc :
    (run1 (.getblk true) (boundTo [0x01, 0x40, 0x57, 0xC0])).acc = 0x57C0 := by decide
theorem test_getblk_bad_level :
    statusWord (run1 (.getblk true) (boundTo [0x01, 0x48, 0x03, 0xFC])) = 0x31 := by decide
theorem test_getblk_g11 :
    ((run1 (.getblk true) (boundTo
        [0xFF, 0xC1, 0x00, 0x40, 0x1E, 0x0F, 0xE0, 0x40, 0x81, 0xFE, 0x02, 0x02, 0x03, 0xF8, 0x14, 0x01, 0xFF,
         0x40])).blk.toList.drop 56).map BitVec.toInt = [-1071, 1216, 0, 0, 0, -3429, 0, 0] := by decide
theorem test_getblk_full_block :
    ((run1 (.getblk true) (boundTo
        [0x80, 0x36, 0xDB, 0x6D, 0xB6, 0xDB, 0x6D, 0xB6, 0xDB, 0x6D, 0xB6, 0xDB, 0x6D, 0xB6, 0xDB, 0x6D, 0xB6,
         0xDB, 0x6D, 0xB6, 0xDB, 0x6D, 0xB6, 0xDB, 0x6D, 0x40])).blk.toList.drop 60).map BitVec.toInt
      = [25, 27, 29, 31] := by decide

/-- A machine inside a GETBLK with hc = 1, at zig-zag index i with the given run just read, over a stream of ones. -/
def inBlock (ph : Phase) (i r : Nat) : State :=
  { boundTo [0xFF, 0xFF, 0xFF, 0xFF] with blk := zeroBlk, phase := ph, zz := i, run := r }

/-- What a run symbol leaves: (bits of the first word not consumed, run, phase). -/
def runSeen (i : Instr) : Nat × Nat × Phase :=
  let t := run1 i (inBlock .run 1 0)
  (t.cnt.toNat, t.run, t.phase)

/-- What a level symbol read at i = 2 leaves: (bits of the first word not consumed, BLK[8] with QUANT[8] = 5, i). -/
def levSeen (i : Instr) : Nat × Int × Nat :=
  let t := run1 i (inBlock .level 2 0)
  (t.cnt.toNat, t.blk[8].toInt, t.zz)

-- The symbols, each read alone (R133 to R140, R147 to R155): code lengths and values from the rules
theorem test_dc : (run1 (.dc 100) (inBlock .dc 0 0)).blk[0] = 300 := by decide
theorem test_run0 : runSeen .run0 = (31, 0, .level) := by decide
theorem test_run1 : runSeen .run1 = (30, 1, .level) := by decide
theorem test_run2to3 : runSeen (.run2to3 1) = (28, 3, .level) := by decide
theorem test_run4to7 : runSeen (.run4to7 2) = (26, 6, .level) := by decide
theorem test_run8to15 : runSeen (.run8to15 7) = (24, 15, .level) := by decide
theorem test_run16to31 : runSeen (.run16to31 11) = (22, 27, .level) := by decide
theorem test_run32to63 : runSeen (.run32to63 18) = (20, 50, .level) := by decide
theorem test_runInvalid : statusWord (run1 .runInvalid (inBlock .run 1 0)) = 0x21 := by decide
theorem test_lev1 : levSeen (.lev1 true) = (30, -5, 3) := by decide
theorem test_eob : statusWord (run1 .eob (inBlock .level 2 63)) = 0x04 := by decide
theorem test_lev2to3 : levSeen (.lev2to3 1 true) = (27, -15, 3) := by decide
theorem test_lev4to7 : levSeen (.lev4to7 1 false) = (25, 25, 3) := by decide
theorem test_lev8to15 : levSeen (.lev8to15 7 true) = (23, -75, 3) := by decide
theorem test_lev16to31 : levSeen (.lev16to31 5 true) = (21, -105, 3) := by decide
theorem test_lev32to63 : levSeen (.lev32to63 31 true) = (19, -315, 3) := by decide
theorem test_lev64to127 : levSeen (.lev64to127 26 true) = (17, -450, 3) := by decide
theorem test_lev_overrun : statusWord (run1 (.lev1 false) (inBlock .level 64 0)) = 0x11 := by decide
theorem test_levInvalid : statusWord (run1 .levInvalid (inBlock .level 2 0)) = 0x31 := by decide

-- The host's actions (R37, R51, R194, R220), each one step
/-- The state one step leaves. -/
def step1 (s : State) : State := after (step s) s

theorem test_host_write_then_read :
    (step1 (step1 { v1 with inbox := [.writeDgm 2 0xEE, .readReg 0x10002] })).rdata = 0xEE := by decide
theorem test_host_illegal_word : statusWord (step1 { v1 with inbox := [.cmd 0x60000000] }) = 0x41 := by decide
theorem test_host_reset_keeps_dgm : (step1 { v1 with inbox := [.reset] }).dgm = v1.dgm := by decide
theorem test_host_reads_len : (step1 { v1 with inbox := [.readReg 0x0C] }).rdata = 6 := by decide
theorem test_host_write_cmd : (step1 { v1 with inbox := [.writeReg 0 0x20000003] }).result = 5 := by decide

-- The instruction placed is the one the next step runs
theorem test_place_read : (step1 (State.reset.withFetchWord 32 0x20000020)).offset = 4 := by decide
theorem test_place_run : (step1 (State.reset.withFetchWord 12 0x06C)).run = 27 := by decide
theorem test_place_lev : (step1 (State.reset.withFetchWord 16 0x4000)).zz = 2 := by decide

-- Witnesses: for every statement with hypotheses, states and operands that meet them all, clause by clause

/-- The cursor has fetched and consumed everything it can address; every bit from here on is beyond the datagram. -/
def saturated : State := { v1 with offset := 131072 }

/-- V1 after READ 1: 31 bits fetched, the most with which a refill can happen. -/
def full31 : State := run1 (.read 1) v1

/-- G2's datagram: DC 25, pairs (0,-3) (4,7) (0,-5), run 0, end of block. -/
def g2 : State := boundTo [0x06, 0x67, 0x10, 0x74, 0x5D]

/-- G3a's datagram: DC 1, run 63, level 1. -/
def g3a : State := boundTo [0x00, 0x40, 0xFE, 0xA0]

/-- G3c's datagram: DC 1, pair (62,-1), run 0, level 1. -/
def g3c : State := boundTo [0x00, 0x40, 0xFB, 0xC0]

/-- G4's datagram: DC 5, run window 0x015. -/
def g4 : State := boundTo [0x01, 0x40, 0x57, 0xC0]

/-- G5's datagram: DC 5, run 2, level window 0x007F. -/
def g5 : State := boundTo [0x01, 0x48, 0x03, 0xFC]

/-- A machine whose ERR is set, between commands. -/
def inError : State := { v1 with err := true, cause := 1 }

theorem wit_DecodeEncodeRoundTrip :
    (Instr.read 32).wellFormed = true ∧ (Instr.lev64to127 63 true).wellFormed = true := by decide
theorem wit_CommandDecodeAcceptsExactlyLegalWords :
    5 < (0x60000000 : Word).toNat / 2 ^ 28 ∧ (0x50010000 : Word).toNat / 2 ^ 28 ≤ 5 ∧
      (0x50010000 : Word).toNat / 2 ^ 16 % 2 ^ 12 ≠ 0 ∧ LegalCmd 0x20000020 ∧ LegalCmd 0x1000FFFF ∧
      ¬LegalCmd 0x20000021 := by
  unfold LegalCmd; decide
theorem wit_IllegalCommandSetsErrAndCauseOnly :
    ¬LegalCmd 0x00000001 ∧ ¬LegalCmd 0x40000001 ∧ ¬LegalCmd 0x50000002 ∧ ¬LegalCmd 0xF0000000 := by
  unfold LegalCmd; decide
theorem wit_TablesInvertTheEncoders :
    (0x03F : BitVec 12).toNat / 2 ^ (12 - (symbolCode (runSymbolOf 63)).1) = (symbolCode (runSymbolOf 63)).2 ∧
      (0x00FF : BitVec 15).toNat / 2 ^ (15 - (symbolCode (levSymbolOf (-127))).1)
        = (symbolCode (levSymbolOf (-127))).2 := by decide
theorem wit_DequantisingIsExact : (dequant (-127) 255).toInt = -32385 ∧ (dequant 127 255).toInt = 32385 := by decide
theorem wit_EngineSeesDatagramBelowLen :
    5 < v1.len.toNat ∧ memLookup v1.dgm 5 = some 0x7E ∧ v1.len.toNat ≤ 6 := by decide
theorem wit_AccumulatorLosesNoBit : CursorInv full31 ∧ full31.cnt.toNat = 31 ∧ full31.cnt.toNat < 32 := by
  unfold CursorInv; decide
theorem wit_CursorFollowsTheStream : AtPos v1 0 ∧ AtPos full31 1 ∧ AtPos (run1 (.peek 32) full31) 1 := by
  unfold AtPos; decide
theorem wit_FieldsReassembleTheStream : AtPos v1 0 ∧ ∀ n ∈ [3, 32, 0, 13], n ≤ 32 := by
  unfold AtPos; decide
theorem wit_SaturatedOffsetChangesNoOutput :
    saturated.len.toNat ≤ saturated.offset.toNat ∧ saturated.len.toNat ≤ (8 : BitVec 18).toNat ∧
      AtPos saturated 1048608 ∧ AtPos v1 0 := by
  unfold AtPos; decide
theorem wit_ReadingPastTheEndGivesZeros :
    AtPos saturated 1048576 ∧ 8 * saturated.len.toNat ≤ 1048576 ∧ AtPos (boundTo []) 0 ∧
      8 * (boundTo []).len.toNat ≤ 0 := by
  unfold AtPos; decide
theorem wit_HostWriteAfterRefillIsNotSeen :
    (31 : BitVec 6).toNat ≤ full31.cnt.toNat ∧ (5 : BitVec 16).toNat < full31.len.toNat := by decide
theorem wit_NopChangesNothing : (1 : Word).toNat / 2 ^ 28 = 0 ∧ (1 : Word) ≠ 0 := by decide
theorem wit_BindStartsADatagram :
    (0x1000FFFF : Word).toNat / 2 ^ 28 = 1 ∧ (0x1000FFFF : Word).toNat / 2 ^ 16 % 2 ^ 12 = 0 ∧
      (0x10010000 : Word).toNat / 2 ^ 28 = 1 ∧ (0x10010000 : Word).toNat / 2 ^ 16 % 2 ^ 12 ≠ 0 := by decide
theorem wit_ReadTakesBitsFromTheAccumulator :
    (32 : BitVec 6).toNat ≤ 32 ∧ (31 : BitVec 6).toNat ≤ full31.cnt.toNat ∧ full31.cnt.toNat < (32 : BitVec 6).toNat := by
  decide
theorem wit_ReadReturnsStreamBits : AtPos full31 1 ∧ (32 : BitVec 6).toNat ≤ 32 := by unfold AtPos; decide
theorem wit_PeekLooksWithoutConsuming : (32 : BitVec 6).toNat ≤ 32 ∧ AtPos full31 1 := by unfold AtPos; decide
theorem wit_CountsAbove32ReadNothing : 32 < (33 : BitVec 6).toNat ∧ 32 < (63 : BitVec 6).toNat := by decide
theorem wit_AlignMovesToByteBoundary : AtPos full31 1 ∧ AtPos v1 0 := by unfold AtPos; decide
theorem wit_AlignOnBoundaryMovesNothing : AtPos (run1 (.read 8) v1) 8 ∧ 8 % 8 = 0 := by unfold AtPos; decide
theorem wit_DcOnlyBlockCompletes : 10 ≤ full31.cnt.toNat ∧ AtPos full31 1 := by unfold AtPos; decide
theorem wit_GetblkDecodesTheBlockTheStreamSpells :
    AtPos g2 0 ∧ PairsFit 1 [(0, -3), (4, 7), (0, -5)] ∧ PairsAt g2 10 [(0, -3), (4, 7), (0, -5)] ∧
      CodeAt g2 (10 + pairsLen [(0, -3), (4, 7), (0, -5)]) (runSymbolOf 0) ∧
      CodeAt g2 (10 + pairsLen [(0, -3), (4, 7), (0, -5)] + (symbolCode (runSymbolOf 0)).1) .eob := by
  simp only [AtPos, PairsFit, PairsAt, CodeAt]; decide
theorem wit_OverrunningPairRaisesOverrun :
    (AtPos g3a 0 ∧ PairsFit 1 [] ∧ PairsAt g3a 10 [] ∧ 63 < pairsEnd 1 [] + 63 ∧ CodeAt g3a 10 (runSymbolOf 63) ∧
      CodeAt g3a (10 + (symbolCode (runSymbolOf 63)).1) (levSymbolOf 1)) ∧
    (AtPos g3c 0 ∧ PairsFit 1 [(62, -1)] ∧ PairsAt g3c 10 [(62, -1)] ∧ 63 < pairsEnd 1 [(62, -1)] + 0 ∧
      CodeAt g3c (10 + pairsLen [(62, -1)]) (runSymbolOf 0) ∧
      CodeAt g3c (10 + pairsLen [(62, -1)] + (symbolCode (runSymbolOf 0)).1) (levSymbolOf 1)) := by
  simp only [AtPos, PairsFit, PairsAt, CodeAt]; decide
theorem wit_InvalidRunWindowRaisesBadRun :
    AtPos g4 0 ∧ PairsFit 1 [] ∧ PairsAt g4 10 [] ∧ streamVal g4 (10 + pairsLen []) 12 < 32 := by
  simp only [AtPos, PairsFit, PairsAt]; decide
theorem wit_InvalidLevelWindowRaisesBadLevel :
    AtPos g5 0 ∧ PairsFit 1 [] ∧ PairsAt g5 10 [] ∧ CodeAt g5 10 (runSymbolOf 2) ∧
      streamVal g5 (10 + (symbolCode (runSymbolOf 2)).1) 15 < 128 := by
  simp only [AtPos, PairsFit, PairsAt, CodeAt]; decide
/-- A configuration that reads one entry at every window, in natural order and with one quantiser. -/
def oneEntry (e : Config.RunEntry) (f : Config.LevEntry) : Config.Tables where
  runTab _ := e
  levTab _ := f
  zigzag i := i
  quant _ := 255

/-- A well-formed configuration that accepts no code. -/
def noCodes : Config.Tables := oneEntry ⟨false, 0, 0⟩ ⟨false, 0, 0, false⟩

theorem wit_CoefficientsAreInRange : tablesWf noCodes := ⟨fun _ => rfl, fun _ => rfl, fun _ _ h => h, rfl⟩
theorem wit_GetblkConsumesBoundedBits : AtPos g2 0 ∧ AtPos g3a 0 := by unfold AtPos; decide
theorem wit_OutputsDependOnlyOnTheStream :
    AtPos full31 1 ∧ AtPos (run1 (.peek 32) full31) 1 ∧ SameDatagram full31 (run1 (.peek 32) full31) ∧
      full31.cnt ≠ (run1 (.peek 32) full31).cnt := by
  unfold AtPos SameDatagram; decide
theorem wit_GetblkIsItsSymbolSteps : g2.inbox = [] := by decide
theorem wit_DcSymbolCompletes :
    (inBlock .dc 0 0).dconly = false ∧ ({ inBlock .dc 0 0 with dconly := true } : State).dconly = true := by decide
theorem wit_RunSymbolsComplete : AtPos (inBlock .run 1 0) 0 := by unfold AtPos; decide
theorem wit_LevelSymbolsComplete :
    AtPos (inBlock .level 63 0) 0 ∧ (inBlock .level 63 0).zz + (inBlock .level 63 0).run ≤ 63 ∧
      ¬(inBlock .level 64 0).zz + (inBlock .level 64 0).run ≤ 63 := by
  unfold AtPos; decide
theorem wit_EobSymbolEndsTheBlock : AtPos (inBlock .level 2 63) 0 := by unfold AtPos; decide
theorem wit_InvalidSymbolsRaiseTheirErrors : AtPos (inBlock .run 1 0) 0 ∧ AtPos (inBlock .level 2 0) 0 := by
  unfold AtPos; decide
theorem wit_StepRunsTheDecodedInstruction :
    v1.phase = .idle ∧ ({ v1 with inbox := [.cmd 0x20000020] } : State).inbox = [.cmd 0x20000020] ∧
      decode (.cmd 0x20000020) = .ok (.read 32) ∧ fetchSymbol (inBlock .run 1 0) = some (.run 0xFFF) ∧
      (inBlock .run 1 0).inbox = [] ∧ decode (.run 0xFFF) = .ok .run0 ∧
      ({ v1 with inbox := [.writeReg 0 0x20000021] } : State).inbox = [.writeReg 0 0x20000021] ∧
      ({ v1 with inbox := [.writeReg 0x1FFFF 0xABCD] } : State).inbox
        = [.writeReg (BitVec.ofNat 17 (0x10000 + (0xFFFF : BitVec 16).toNat)) 0xABCD] ∧
      (0xCD : Byte) = BitVec.ofNat 8 (0xABCD : Word).toNat := by decide
theorem wit_StepRunsTheDecodedInstruction_illegal : ¬LegalCmd 0x20000021 := by unfold LegalCmd; decide
theorem wit_ResetGivesTheResetValues :
    ({ inBlock .level 2 0 with inbox := [.reset] } : State).inbox = [.reset] ∧ (hostReset v1).len = 0 ∧
      (hostReset v1).acc = 0 ∧ (32 : BitVec 6).toNat ≤ 32 := by decide
theorem wit_OnlyTheHostWritesTheDatagram :
    (hostWriteDgm 6 0xEE v1).dgm ≠ v1.dgm ∧ (1 : Nat) ≠ (6 : BitVec 16).toNat := by decide
theorem wit_RegisterReadsFollowTheMap :
    v1.phase = .idle ∧ (0x0FFFC : BitVec 17).toNat % 4 = 0 ∧ 0x10000 ≤ (0x1FFFF : BitVec 17).toNat ∧
      (0x20 : BitVec 17).toNat % 4 = 0 ∧ ¬(0x100 ≤ (0x200 : BitVec 17).toNat ∧ (0x200 : BitVec 17).toNat < 0x200) := by
  decide
theorem wit_RegisterWritesFollowTheMap :
    (0x04 : BitVec 17) ≠ 0 ∧ (0x04 : BitVec 17).toNat % 4 = 0 ∧ (0x0FFFC : BitVec 17).toNat < 0x10000 := by decide
theorem wit_OnlyUnalignedRegisterAccessIsRefused :
    v1.phase = .idle ∧ (0x0FFFF : BitVec 17).toNat < 0x10000 ∧ (0x0FFFF : BitVec 17).toNat % 4 ≠ 0 := by decide
theorem wit_IdleMachineHoldsItsState : v1.phase = .idle ∧ v1.inbox = [] := by decide
theorem wit_CommandsCompleteInOneStep :
    (step1 { g2 with inbox := [.cmd 0x50000001] }).blkvalid = true := by decide
theorem wit_ErrIsClearedOnlyByBindAndReset :
    inError.err = true ∧ (run1 (.bind 6) inError).err = false ∧
      (step1 { inError with inbox := [.reset] }).err = false ∧
      (step1 { inError with inbox := [.writeReg 0 0x10000006] }).err = false := by decide
theorem wit_EachRegisterHasItsWriters :
    (run1 (.read 3) v1).result ≠ v1.result ∧ (run1 (.bind 5) v1).len ≠ v1.len := by decide
theorem wit_PositionNeverMovesBack : AtPos full31 1 ∧ ∀ L, Instr.getblk true ≠ .bind L := by
  refine ⟨by unfold AtPos; decide, fun L h => by cases h⟩
theorem wit_EveryStepKeepsTheInvariant :
    MachineInv v1 ∧ MachineInv inError ∧ MachineInv (inBlock .level 64 63) :=
  ⟨⟨by decide, by unfold CursorInv; decide, by unfold StatusInv; decide, rfl, rfl⟩,
    ⟨by decide, by unfold CursorInv; decide, by unfold StatusInv; decide, rfl, rfl⟩,
    ⟨by decide, by unfold CursorInv; decide, by unfold StatusInv; decide, by decide, by decide, by decide, rfl, rfl⟩⟩
theorem wit_EveryStepKeepsTheInvariant_configured :
    tablesWf noCodes ∧ statusWord (after (stepOver noCodes (inBlock .run 1 0)) v1) = 0x21 :=
  ⟨wit_CoefficientsAreInRange, by decide⟩
/-- Every run entry is followed by no level code. -/
def noLevel : Config.Tables := oneEntry ⟨true, 1, 0⟩ ⟨false, 0, 0, false⟩

/-- Every level window is an end-of-block code. -/
def onlyEob : Config.Tables := oneEntry ⟨true, 12, 63⟩ ⟨true, 15, 0, true⟩

/-- Every pair skips 21 places, so that two fit and the third does not. -/
def threeOverrun : Config.Tables := oneEntry ⟨true, 1, 21⟩ ⟨true, 1, 5, false⟩

/-- Two of those pairs. -/
def twoPairs : List (Config.RunEntry × Config.LevEntry) := List.replicate 2 (⟨true, 1, 21⟩, ⟨true, 1, 5, false⟩)

/-- One entry at every window is well formed where its fields are in range. -/
theorem oneEntry_wf (e : Config.RunEntry) (f : Config.LevEntry)
    (he : if e.valid then 1 ≤ e.nbits ∧ e.nbits ≤ 12 ∧ e.run ≤ 63 else e = ⟨false, 0, 0⟩)
    (hf : if f.valid then 1 ≤ f.nbits ∧ f.nbits ≤ 15 ∧ -127 ≤ f.value ∧ f.value ≤ 127 ∧ (f.eob = true → f.value = 0) ∧
      (f.eob = false → f.value ≠ 0) else f = ⟨false, 0, 0, false⟩) : tablesWf (oneEntry e f) := by
  refine ⟨fun _ => ?_, fun _ => ?_, fun _ _ h => h, rfl⟩
  · cases h : e.valid <;> simp_all [oneEntry]
  · cases h : f.valid <;> simp_all [oneEntry]

-- Each ending, at the first pair or after two pairs that fit: invalid run, invalid level, end of block, place beyond 63
theorem wit_GetblkDecodesInAnyConfiguration :
    AtPos g2 0 ∧ tablesWf noCodes ∧ (runAt noCodes g2 10).valid = false ∧
      tablesWf noLevel ∧ (runAt noLevel g2 10).valid = true ∧ (levAt noLevel g2 11).valid = false ∧
      tablesWf onlyEob ∧ (levAt onlyEob g2 22).eob = true ∧
      tablesWf threeOverrun ∧ EntriesAt threeOverrun g2 10 twoPairs ∧ RunsFit 1 (pairsOf twoPairs) ∧
      63 < pairsEnd 1 (pairsOf twoPairs) + 21 :=
  ⟨by unfold AtPos; decide, wit_CoefficientsAreInRange, by decide, oneEntry_wf _ _ (by decide) (by decide), by decide,
    by decide, oneEntry_wf _ _ (by decide) (by decide), by decide, oneEntry_wf _ _ (by decide) (by decide),
    by simp only [twoPairs, List.replicate, EntriesAt]; decide,
    by simp only [twoPairs, List.replicate, pairsOf, List.map, RunsFit]; decide, by decide⟩
theorem wit_MachineIsTheConfiguredOneAtTheDefaults :
    decodeCmd 0x20000003 = .ok (.read 3) ∧ (∀ hc, Instr.read 3 ≠ .getblk hc) ∧
      decodeCmd 0x50000001 = .ok (.getblk true) ∧ ¬LegalCmd 0x50000002 :=
  ⟨by decide, fun hc h => (by cases h), by decide, by unfold LegalCmd; decide⟩

-- GETBLK in another configuration (R161): G2's levels 25, -3, 7, -5 with every quantiser 1
theorem test_getblk_configured :
    ((after (execGetblkOver { tables with quant := fun _ => 1 } true g2) v1).blk.toList.take 11).map BitVec.toInt
      = [25, -3, 0, 7, 0, 0, 0, 0, 0, 0, -5] := by decide
-- A step of the machine in that configuration runs the same command (R6, R9)
theorem test_step_configured :
    (after (stepOver { tables with quant := fun _ => 1 } { g2 with inbox := [.cmd 0x50000001] }) v1).blk[0] = 25 := by
  decide

end Sys2Proof.Tests
end

section
/-! PROOFS. The decoder and the default tables: a command word that decodes is a legal one and a command, and a window's
class stands for the entry the default rules give the window. -/

namespace Sys2Proof.Machine

-- Command words

/-- The decoder's op field, as R80 numbers it. -/
theorem toNat_opField (cw : Word) : (cw.extractLsb' 28 4).toNat = cw.toNat / 2 ^ 28 := by
  have := cw.isLt
  rw [BitVec.extractLsb'_toNat, Nat.shiftRight_eq_div_pow]
  omega

/-- The decoder's rsv field, as R80 numbers it. -/
theorem toNat_rsvField (cw : Word) : (cw.extractLsb' 16 12).toNat = cw.toNat / 2 ^ 16 % 2 ^ 12 := by
  rw [BitVec.extractLsb'_toNat, Nat.shiftRight_eq_div_pow]

/-- The decoder's arg field, as R80 numbers it. -/
theorem toNat_argField (cw : Word) : (cw.extractLsb' 0 16).toNat = cw.toNat % 2 ^ 16 := by
  rw [BitVec.extractLsb'_toNat, Nat.shiftRight_zero]

/-- READ and PEEK decode only with a count of at most 32 (R80). -/
theorem decodeCount_ok {arg : BitVec 16} {mk : BitVec 6 → Instr} {i : Instr} (h : decodeCount arg mk = .ok i) :
    arg.toNat ≤ 32 ∧ ∃ n, i = mk n := by
  unfold decodeCount at h
  split_ifs at h with harg hn
  · refine ⟨?_, _, (Except.ok.inj h).symm⟩
    have hhigh : arg.toNat / 2 ^ 6 % 2 ^ 10 = 0 := by
      have := congrArg BitVec.toNat (not_not.mp harg)
      rwa [BitVec.extractLsb'_toNat, Nat.shiftRight_eq_div_pow] at this
    have hlow : arg.toNat % 2 ^ 6 ≤ 32 := by
      rw [BitVec.extractLsb'_toNat, Nat.shiftRight_zero] at hn
      exact Nat.le_of_not_lt hn
    have := arg.isLt
    omega

/-- What the operand decoder accepts, op by op (R80). -/
theorem decodeArg_ok {op : BitVec 4} {arg : BitVec 16} {i : Instr} (h : decodeArg op arg = .ok i) :
    (op.toNat = 0 ∧ arg.toNat = 0 ∧ i = .nop) ∨ (op.toNat = 1 ∧ i = .bind arg) ∨
      (op.toNat = 2 ∧ arg.toNat ≤ 32 ∧ ∃ n, i = .read n) ∨ (op.toNat = 3 ∧ arg.toNat ≤ 32 ∧ ∃ n, i = .peek n) ∨
      (op.toNat = 4 ∧ arg.toNat = 0 ∧ i = .align) ∨ (op.toNat = 5 ∧ arg.toNat ≤ 1 ∧ ∃ hc, i = .getblk hc) := by
  unfold decodeArg at h
  split_ifs at h with h0 ha h1 h2 h3 h4 ha h5 ha
  · exact .inl ⟨by rw [h0]; rfl, by rw [ha]; rfl, (Except.ok.inj h).symm⟩
  · exact .inr (.inl ⟨by rw [h1]; rfl, (Except.ok.inj h).symm⟩)
  · exact .inr (.inr (.inl ⟨by rw [h2]; rfl, decodeCount_ok h⟩))
  · exact .inr (.inr (.inr (.inl ⟨by rw [h3]; rfl, decodeCount_ok h⟩)))
  · exact .inr (.inr (.inr (.inr (.inl ⟨by rw [h4]; rfl, by rw [ha]; rfl, (Except.ok.inj h).symm⟩))))
  · refine .inr (.inr (.inr (.inr (.inr ⟨by rw [h5]; rfl, ?_, _, (Except.ok.inj h).symm⟩))))
    have hhigh : arg.toNat / 2 ^ 1 % 2 ^ 15 = 0 := by
      have := congrArg BitVec.toNat ha
      rwa [BitVec.extractLsb'_toNat, Nat.shiftRight_eq_div_pow] at this
    have := arg.isLt
    omega

/-- A word that decodes has rsv = 0, and its operand decodes (R81). -/
theorem decodeCmd_ok {cw : Word} {i : Instr} (h : decodeCmd cw = .ok i) :
    cw.toNat / 2 ^ 16 % 2 ^ 12 = 0 ∧ decodeArg (cw.extractLsb' 28 4) (cw.extractLsb' 0 16) = .ok i := by
  unfold decodeCmd at h
  split_ifs at h with hop hrsv
  refine ⟨?_, h⟩
  rw [← toNat_rsvField, not_not.mp hrsv]
  rfl

/-- Only legal words decode (R81, R83). -/
theorem legalCmd_of_decodeCmd_ok {cw : Word} {i : Instr} (h : decodeCmd cw = .ok i) : LegalCmd cw := by
  obtain ⟨hrsv, harg⟩ := decodeCmd_ok h
  have hcases := decodeArg_ok harg
  rw [toNat_opField, toNat_argField] at hcases
  simp only [LegalCmd]
  rcases hcases with ⟨ho, ha, -⟩ | ⟨ho, -⟩ | ⟨ho, ha, -⟩ | ⟨ho, ha, -⟩ | ⟨ho, ha, -⟩ | ⟨ho, ha, -⟩ <;> omega

/-- The decoder refuses every word that is not legal (R83). -/
theorem decodeCmd_error_of_not_legalCmd {cw : Word} (h : ¬LegalCmd cw) : ∃ r, decodeCmd cw = .error r := by
  cases hd : decodeCmd cw with
  | error r => exact ⟨r, rfl⟩
  | ok i => exact absurd (legalCmd_of_decodeCmd_ok hd) h

-- Windows of the default tables

/-- A W-bit number whose leading one follows z zeros has z leading zeros (R11). -/
theorem clz_eq {W v z : Nat} (hz : z < W) (h : v / 2 ^ (W - 1 - z) = 1) : clz W v = z := by
  induction W generalizing z with
  | zero => omega
  | succ W ih =>
    cases z with
    | zero => simp [clz, Nat.testBit_eq_decide_div_mod_eq, show v / 2 ^ W = 1 by simpa using h]
    | succ z =>
      have hsmall : v < 2 ^ W := by
        have hlt : v < (1 + 1) * 2 ^ (W + 1 - 1 - (z + 1)) :=
          (Nat.div_lt_iff_lt_mul (Nat.two_pow_pos _)).mp (by omega)
        have hpow : 2 ^ (W + 1 - 1 - (z + 1) + 1) ≤ 2 ^ W := Nat.pow_le_pow_right (by decide) (by omega)
        rw [pow_succ] at hpow
        omega
      rw [clz, Nat.testBit_lt_two_pow hsmall,
        ih (z := z) (by omega) (by rwa [show W - 1 - z = W + 1 - 1 - (z + 1) by omega])]
      simp [Nat.add_comm]

/-- A number below 2^(W - z) has at least z leading zeros in W bits (R11). -/
theorem le_clz {W v z : Nat} (hz : z ≤ W) (h : v < 2 ^ (W - z)) : z ≤ clz W v := by
  induction W generalizing z with
  | zero => omega
  | succ W ih =>
    cases z with
    | zero => omega
    | succ z =>
      have hsmall : v < 2 ^ W := lt_of_lt_of_le h (Nat.pow_le_pow_right (by decide) (by omega))
      have := ih (z := z) (by omega) (by rwa [show W - z = W + 1 - (z + 1) by omega])
      rw [clz, Nat.testBit_lt_two_pow hsmall]
      simp only [Bool.false_eq_true, if_false]
      omega

/-- A window's top z + 1 bits are 0...01 exactly where its leading one follows z zeros. -/
theorem topBits_eq_one_iff {W z : Nat} (w : BitVec W) (hz : z < W) :
    w.extractLsb' (W - 1 - z) (z + 1) = 1 ↔ w.toNat / 2 ^ (W - 1 - z) = 1 := by
  have hlt : w.toNat / 2 ^ (W - 1 - z) < 2 ^ (z + 1) := by
    rw [Nat.div_lt_iff_lt_mul (Nat.two_pow_pos _), ← pow_add, show z + 1 + (W - 1 - z) = W by omega]
    exact w.isLt
  have hone : 1 % 2 ^ (z + 1) = 1 := Nat.mod_eq_of_lt (Nat.one_lt_two_pow (by omega))
  rw [← BitVec.toNat_inj, BitVec.extractLsb'_toNat, Nat.shiftRight_eq_div_pow, Nat.mod_eq_of_lt hlt,
    BitVec.ofNat_eq_ofNat, BitVec.toNat_ofNat, hone]

/-- The run class of a window stands for the entry RunRule gives it (R132 to R141). -/
theorem runEntryOf_decodeRun (w : BitVec 12) : runEntryOf (decodeRun w) = some (runRule w) := by
  have hz : ∀ z, z < 12 → w.extractLsb' (12 - 1 - z) (z + 1) = 1 → clz 12 w.toNat = z := fun z hlt h =>
    clz_eq hlt ((topBits_eq_one_iff w hlt).mp h)
  unfold decodeRun
  split_ifs with h0 h1 h2 h3 h4 h5 h6
  · simp [runRule, hz 0 (by decide) h0, runEntryOf, runEntry]
  · simp [runRule, hz 1 (by decide) h1, runEntryOf, runEntry, Nat.mod_one]
  · simp [runRule, hz 2 (by decide) h2, runEntryOf, runEntry, BitVec.extractLsb'_toNat]
  · simp [runRule, hz 3 (by decide) h3, runEntryOf, runEntry, BitVec.extractLsb'_toNat]
  · simp [runRule, hz 4 (by decide) h4, runEntryOf, runEntry, BitVec.extractLsb'_toNat]
  · simp [runRule, hz 5 (by decide) h5, runEntryOf, runEntry, BitVec.extractLsb'_toNat]
  · simp [runRule, hz 6 (by decide) h6, runEntryOf, runEntry, BitVec.extractLsb'_toNat]
  · have hsmall : w.toNat < 2 ^ (12 - 7) := by
      have := w.isLt
      have e0 := (topBits_eq_one_iff w (z := 0) (by decide)).not.mp h0
      have e1 := (topBits_eq_one_iff w (z := 1) (by decide)).not.mp h1
      have e2 := (topBits_eq_one_iff w (z := 2) (by decide)).not.mp h2
      have e3 := (topBits_eq_one_iff w (z := 3) (by decide)).not.mp h3
      have e4 := (topBits_eq_one_iff w (z := 4) (by decide)).not.mp h4
      have e5 := (topBits_eq_one_iff w (z := 5) (by decide)).not.mp h5
      have e6 := (topBits_eq_one_iff w (z := 6) (by decide)).not.mp h6
      omega
    simp [runRule, le_clz (by decide) hsmall, runEntryOf, invalidRunEntry]

/-- The level class of a window stands for the entry LevRule gives it (R146 to R156). -/
theorem levEntryOf_decodeLev (w : BitVec 15) : levEntryOf (decodeLev w) = some (levRule w) := by
  have hz : ∀ z, z < 15 → w.extractLsb' (15 - 1 - z) (z + 1) = 1 → clz 15 w.toNat = z := fun z hlt h =>
    clz_eq hlt ((topBits_eq_one_iff w hlt).mp h)
  have hsign : ∀ k, w.toNat >>> k % 2 = 1 ↔ w.getLsbD k = true := fun k => by
    rw [BitVec.getLsbD, Nat.testBit_eq_decide_div_mod_eq, Nat.shiftRight_eq_div_pow, decide_eq_true_iff]
  unfold decodeLev
  split_ifs with h0 h1 h2 h3 h4 h5 h6 h7
  · simp [levRule, hz 0 (by decide) h0, levEntryOf, levEntry, hsign]
  · simp [levRule, hz 1 (by decide) h1, levEntryOf, eobEntry]
  · simp [levRule, hz 2 (by decide) h2, levEntryOf, levEntry, hsign, BitVec.extractLsb'_toNat]
  · simp [levRule, hz 3 (by decide) h3, levEntryOf, levEntry, hsign, BitVec.extractLsb'_toNat]
  · simp [levRule, hz 4 (by decide) h4, levEntryOf, levEntry, hsign, BitVec.extractLsb'_toNat]
  · simp [levRule, hz 5 (by decide) h5, levEntryOf, levEntry, hsign, BitVec.extractLsb'_toNat]
  · simp [levRule, hz 6 (by decide) h6, levEntryOf, levEntry, hsign, BitVec.extractLsb'_toNat]
  · have hsign0 : w.toNat % 2 = 1 ↔ w[0] = true := by simpa using hsign 0
    simp [levRule, hz 7 (by decide) h7, levEntryOf, levEntry, hsign0, BitVec.extractLsb'_toNat]
  · have hsmall : w.toNat < 2 ^ (15 - 8) := by
      have := w.isLt
      have e0 := (topBits_eq_one_iff w (z := 0) (by decide)).not.mp h0
      have e1 := (topBits_eq_one_iff w (z := 1) (by decide)).not.mp h1
      have e2 := (topBits_eq_one_iff w (z := 2) (by decide)).not.mp h2
      have e3 := (topBits_eq_one_iff w (z := 3) (by decide)).not.mp h3
      have e4 := (topBits_eq_one_iff w (z := 4) (by decide)).not.mp h4
      have e5 := (topBits_eq_one_iff w (z := 5) (by decide)).not.mp h5
      have e6 := (topBits_eq_one_iff w (z := 6) (by decide)).not.mp h6
      have e7 := (topBits_eq_one_iff w (z := 7) (by decide)).not.mp h7
      omega
    simp [levRule, le_clz (by decide) hsmall, levEntryOf, invalidLevEntry]

end Sys2Proof.Machine
end

section
/-! PROOFS. The machine and its configurations: the machine is the configured one at the default tables, what a command
word can do, and what a step can do. -/

namespace Sys2Proof.Machine

/-- A run class runs as the entry it stands for (R133 to R140). -/
theorem exec_of_runEntryOf {i : Instr} {e : Config.RunEntry} (h : runEntryOf i = some e) (s : State) :
    exec i s = .next (runSymbol e s) := by
  cases i <;> cases h <;> rfl

/-- A level class runs as the entry it stands for (R147 to R155). -/
theorem exec_of_levEntryOf {i : Instr} {f : Config.LevEntry} (h : levEntryOf i = some f) (s : State) :
    exec i s = .next (levSymbol tables f s) := by
  cases i <;> cases h <;> rfl

/-- A command in the configuration of the default tables is the command. -/
theorem execCmdOver_tables (i : Instr) (s : State) : execCmdOver tables i s = exec i s := by
  cases i <;> rfl

/-- No command but GETBLK looks at a table (R40). -/
theorem execCmdOver_eq_exec (T : Config.Tables) {i : Instr} (h : ∀ hc, i ≠ .getblk hc) (s : State) :
    execCmdOver T i s = exec i s := by
  cases i
  case getblk hc => exact absurd rfl (h hc)
  all_goals rfl

/-- A word that decodes runs as its command. -/
theorem runPlacedOver_cmd_ok (T : Config.Tables) {cw : Word} {i : Instr} (h : decodeCmd cw = .ok i) (s : State) :
    runPlacedOver T (.cmd cw) s = execCmdOver T i s := by
  simp only [runPlacedOver, h]

/-- A word that does not decode takes ILLEGAL_CMD (R83, R194). -/
theorem runPlacedOver_cmd_error (T : Config.Tables) {cw : Word} {r : DecodeReject} (h : decodeCmd cw = .error r)
    (s : State) : runPlacedOver T (.cmd cw) s = .next (takeError .illegalCmd s) := by
  simp only [runPlacedOver, h]

/-- What decodes runs as its instruction. -/
theorem runPlaced_ok {p : Placed} {i : Instr} (h : decode p = .ok i) (s : State) : runPlaced p s = exec i s := by
  simp only [runPlaced, h]

/-- The machine runs what is placed as the configured machine does at the default tables. -/
theorem runPlacedOver_tables : runPlacedOver tables = runPlaced := by
  funext p s
  cases p with
  | cmd cw =>
    cases h : decodeCmd cw with
    | ok i => rw [runPlacedOver_cmd_ok tables h, execCmdOver_tables, runPlaced_ok (p := .cmd cw) h]
    | error r => rw [runPlacedOver_cmd_error tables h, runPlaced]; simp only [decode, h]
  | dc d => rfl
  | run w => exact (exec_of_runEntryOf (runEntryOf_decodeRun w) s).symm
  | lev w => exact (exec_of_levEntryOf (levEntryOf_decodeLev w) s).symm

/-- A host action at the default tables. -/
theorem hostActionOver_tables : hostActionOver tables = hostAction := by
  funext a s
  rw [hostActionOver, hostAction, runPlacedOver_tables]

/-- A step at the default tables. -/
theorem stepOver_tables : stepOver tables = step := by
  funext s
  rw [stepOver, step, fetchAndRunOver, fetchAndRun, runPlacedOver_tables]

/-- An illegal word, in any configuration (R194). -/
theorem hostActionOver_cmd_illegal (T : Config.Tables) {cw : Word} (h : ¬LegalCmd cw) (s : State) :
    hostActionOver T (.cmd cw) s = .next { s with err := true, cause := 4 } := by
  obtain ⟨r, hr⟩ := decodeCmd_error_of_not_legalCmd h
  exact runPlacedOver_cmd_error T hr s

/-- Settles O59: the classes of the default rules stand for the entries of the default tables, and no command but
GETBLK looks at a table. -/
theorem machineIsTheConfiguredOneAtTheDefaults : Obligations.MachineIsTheConfiguredOneAtTheDefaults := by
  refine ⟨fun p s => by rw [runPlacedOver_tables], fun a s => by rw [hostActionOver_tables],
    fun s => by rw [stepOver_tables], fun T cw s => ⟨fun i hi hne => ?_, fun hc hi => ?_, fun hill => ?_⟩⟩
  · exact (runPlacedOver_cmd_ok T hi s).trans (execCmdOver_eq_exec T hne s)
  · exact runPlacedOver_cmd_ok T hi s
  · exact hostActionOver_cmd_illegal T hill s

/-- What the machine makes of a command word in the configuration T: one of the six commands, or ILLEGAL_CMD (R80). -/
inductive CmdEffect (T : Config.Tables) (s : State) : State → Prop
  | nop : CmdEffect T s s
  | bind (len : BitVec 16) : CmdEffect T s (clearError (rewind { s with len := len }))
  | read (n : BitVec 6) (hn : n.toNat ≤ 32) : CmdEffect T s (setResult (peekBits n.toNat s) (skip n.toNat s))
  | peek (n : BitVec 6) (hn : n.toNat ≤ 32) : CmdEffect T s (setResult (peekBits n.toNat s) (fill n.toNat s))
  | align : CmdEffect T s (skip (s.cnt.toNat % 8) s)
  | getblk (hc : Bool) : CmdEffect T s (getblk T hc s)
  | illegal : CmdEffect T s (takeError .illegalCmd s)

/-- Every command word completes, with one of these effects (R80, R194). -/
theorem runPlacedOver_cmd_effect (T : Config.Tables) (cw : Word) (s : State) :
    ∃ t, runPlacedOver T (.cmd cw) s = .next t ∧ CmdEffect T s t := by
  cases hd : decodeCmd cw with
  | error r => exact ⟨_, runPlacedOver_cmd_error T hd s, .illegal⟩
  | ok i =>
    rw [runPlacedOver_cmd_ok T hd]
    rcases decodeArg_ok (decodeCmd_ok hd).2 with
      ⟨-, -, rfl⟩ | ⟨-, rfl⟩ | ⟨-, -, n, rfl⟩ | ⟨-, -, n, rfl⟩ | ⟨-, -, rfl⟩ | ⟨-, -, hc, rfl⟩
    · exact ⟨_, rfl, .nop⟩
    · exact ⟨_, rfl, .bind _⟩
    · by_cases hn : n.toNat ≤ 32
      · exact ⟨_, by simp [execCmdOver, exec, execRead, countLegal, hn], .read n hn⟩
      · exact ⟨_, by simp [execCmdOver, exec, execRead, countLegal, hn], .illegal⟩
    · by_cases hn : n.toNat ≤ 32
      · exact ⟨_, by simp [execCmdOver, exec, execPeek, countLegal, hn], .peek n hn⟩
      · exact ⟨_, by simp [execCmdOver, exec, execPeek, countLegal, hn], .illegal⟩
    · exact ⟨_, rfl, .align⟩
    · exact ⟨_, rfl, .getblk hc⟩

/-- Whatever is placed completes, in any configuration. -/
theorem runPlacedOver_completes (T : Config.Tables) (p : Placed) (s : State) : ∃ t, runPlacedOver T p s = .next t := by
  cases p with
  | cmd cw => exact (runPlacedOver_cmd_effect T cw s).imp fun _ h => h.1
  | dc d => exact ⟨_, rfl⟩
  | run w => exact ⟨_, rfl⟩
  | lev w => exact ⟨_, rfl⟩

-- What a step does, in the four situations it can find

/-- Between commands with nothing waiting a step holds the state (R209). -/
theorem fetchAndRunBy_idle_nil (run : Runner) {s : State} (hp : s.phase = .idle) (hi : s.inbox = []) :
    fetchAndRunBy run s = .next s := by
  simp only [fetchAndRunBy, (fetchSymbol_eq_none s).mpr hp, hi]

/-- Between commands a step is the host action that waits first (R6). -/
theorem fetchAndRunBy_idle_cons (run : Runner) {s : State} {a : HostAction} {rest : List HostAction}
    (hp : s.phase = .idle) (hi : s.inbox = a :: rest) :
    fetchAndRunBy run s = hostActionBy run a { s with inbox := rest } := by
  simp only [fetchAndRunBy, (fetchSymbol_eq_none s).mpr hp, hi]

/-- In a running GETBLK a reset that waits first is taken (R220). -/
theorem fetchAndRunBy_reset (run : Runner) {s : State} {p : Placed} {rest : List HostAction}
    (hf : fetchSymbol s = some p) (hi : s.inbox = .reset :: rest) :
    fetchAndRunBy run s = .next (hostReset { s with inbox := rest }) := by
  simp only [fetchAndRunBy, hf, (resetWaiting_eq_some s rest).mpr hi]

/-- In a running GETBLK with no reset waiting first the symbol at the cursor is run (R92). -/
theorem fetchAndRunBy_symbol (run : Runner) {s : State} {p : Placed} (hf : fetchSymbol s = some p)
    (hi : ∀ rest, s.inbox ≠ .reset :: rest) : fetchAndRunBy run s = run p s := by
  have hr : resetWaiting s = none := Option.eq_none_iff_forall_ne_some.mpr fun rest h =>
    hi rest ((resetWaiting_eq_some s rest).mp h)
  simp only [fetchAndRunBy, hf, hr]

/-- The situations a step can find: between commands, nothing or an action waiting; in a GETBLK, a reset waiting first
or not. -/
theorem step_situations (s : State) :
    (s.phase = .idle ∧ s.inbox = []) ∨ (s.phase = .idle ∧ ∃ a rest, s.inbox = a :: rest) ∨
      (∃ p rest, fetchSymbol s = some p ∧ s.inbox = .reset :: rest) ∨
      ∃ p, fetchSymbol s = some p ∧ ∀ rest, s.inbox ≠ .reset :: rest := by
  cases hf : fetchSymbol s with
  | none =>
    have hp := (fetchSymbol_eq_none s).mp hf
    cases hi : s.inbox with
    | nil => exact .inl ⟨hp, rfl⟩
    | cons a rest => exact .inr (.inl ⟨hp, a, rest, rfl⟩)
  | some p =>
    by_cases hr : ∃ rest, s.inbox = .reset :: rest
    · exact .inr (.inr (.inl ⟨p, hr.choose, rfl, hr.choose_spec⟩))
    · exact .inr (.inr (.inr ⟨p, rfl, fun rest h => hr ⟨rest, h⟩⟩))

end Sys2Proof.Machine
end

section
/-! PROOFS. The host's actions and the step: what is refused, what runs, and that commands complete in one step. -/

namespace Sys2Proof.Machine

/-- A register access is outside the spec exactly where it is below the DGM window and not at a word's address (R57). -/
theorem accessAligned_eq_false_iff (addr : BitVec 17) :
    accessAligned addr = false ↔ addr.toNat < 0x10000 ∧ addr.toNat % 4 ≠ 0 := by
  rw [accessAligned, Bool.or_eq_false_iff, decide_eq_false_iff_not, decide_eq_false_iff_not, Nat.not_le]
  rfl

/-- A register read is refused exactly where the access is outside the spec (R57). -/
theorem hostReadReg_refused_iff (addr : BitVec 17) (s : State) (r : Refusal) :
    hostReadReg addr s = .refused r ↔ r = .unalignedRegister ∧ accessAligned addr = false := by
  unfold hostReadReg
  split_ifs with h <;> simp [h, eq_comm]

/-- A register write is refused exactly where the access is outside the spec (R57). -/
theorem hostWriteRegBy_refused_iff {run : Runner} (hrun : ∀ p s, ∃ t, run p s = .next t) (addr : BitVec 17)
    (data : Word) (s : State) (r : Refusal) :
    hostWriteRegBy run addr data s = .refused r ↔ r = .unalignedRegister ∧ accessAligned addr = false := by
  obtain ⟨t, ht⟩ := hrun (.cmd data) s
  unfold hostWriteRegBy
  split_ifs with hw h h0
  · simp [accessAligned, hw]
  · simp [ht, h]
  · simp [h]
  · simp [h, eq_comm]

/-- The access of R57 that the machine refuses: not of an aligned word, outside the DGM window. -/
def UnalignedAccess (a : HostAction) : Prop :=
  ∃ addr : BitVec 17, addr.toNat < 0x10000 ∧ addr.toNat % 4 ≠ 0 ∧ (a = .readReg addr ∨ ∃ data, a = .writeReg addr data)

/-- Where command words complete, a host action is refused exactly where it is such an access (R57). -/
theorem hostActionBy_refused_iff {run : Runner} (hrun : ∀ p s, ∃ t, run p s = .next t) (a : HostAction) (s : State)
    (r : Refusal) : hostActionBy run a s = .refused r ↔ r = .unalignedRegister ∧ UnalignedAccess a := by
  cases a with
  | reset => simp [hostActionBy, UnalignedAccess]
  | writeDgm x b => simp [hostActionBy, UnalignedAccess]
  | cmd cw =>
    obtain ⟨t, ht⟩ := hrun (.cmd cw) s
    simp [hostActionBy, UnalignedAccess, ht]
  | readReg addr => simp [hostActionBy, hostReadReg_refused_iff, accessAligned_eq_false_iff, UnalignedAccess]
  | writeReg addr data =>
    simp [hostActionBy, hostWriteRegBy_refused_iff hrun, accessAligned_eq_false_iff, UnalignedAccess]

/-- Where everything placed completes, a step is refused exactly where such an access waits first between commands. -/
theorem fetchAndRunBy_refused_iff {run : Runner} (hrun : ∀ p s, ∃ t, run p s = .next t) (s : State) (r : Refusal) :
    fetchAndRunBy run s = .refused r ↔
      r = .unalignedRegister ∧ s.phase = .idle ∧ ∃ a rest, s.inbox = a :: rest ∧ UnalignedAccess a := by
  rcases step_situations s with ⟨hp, hi⟩ | ⟨hp, a, rest, hi⟩ | ⟨p, rest, hf, hi⟩ | ⟨p, hf, hi⟩
  · simp [fetchAndRunBy_idle_nil run hp hi, hi]
  · rw [fetchAndRunBy_idle_cons run hp hi, hostActionBy_refused_iff hrun]
    simp [hp, hi]
  all_goals have hp : s.phase ≠ .idle := fun h => by simp [(fetchSymbol_eq_none s).mpr h] at hf
  · simp [fetchAndRunBy_reset run hf hi, hp]
  · obtain ⟨t, ht⟩ := hrun p s
    simp [fetchAndRunBy_symbol run hf hi, ht, hp]

/-- A step in any configuration is refused exactly where an unaligned access waits first between commands. -/
theorem stepOver_refused_iff (T : Config.Tables) (s : State) (r : Refusal) :
    stepOver T s = .refused r ↔
      r = .unalignedRegister ∧ s.phase = .idle ∧ ∃ a rest, s.inbox = a :: rest ∧ UnalignedAccess a :=
  fetchAndRunBy_refused_iff (runPlacedOver_completes T) s r

/-- Settles O48: every command and every symbol completes, so a step is refused only at an unaligned access. -/
theorem onlyUnalignedRegisterAccessIsRefused : Obligations.OnlyUnalignedRegisterAccessIsRefused := by
  intro s
  have hstep : ∀ r, step s = .refused r ↔
      r = .unalignedRegister ∧ s.phase = .idle ∧ ∃ a rest, s.inbox = a :: rest ∧ UnalignedAccess a := fun r => by
    rw [← stepOver_tables, stepOver_refused_iff]
  refine ⟨⟨?_, ?_⟩, fun r h => ((hstep r).mp h).1, nofun, fun T => ⟨fun r => ?_, nofun⟩⟩
  · rintro ⟨r, h⟩
    obtain ⟨-, hp, a, rest, hi, addr, hlt, hmod, hacc⟩ := (hstep r).mp h
    refine ⟨hp, addr, rest, hlt, hmod, ?_⟩
    rcases hacc with rfl | ⟨data, rfl⟩
    · exact .inl hi
    · exact .inr ⟨data, hi⟩
  · rintro ⟨hp, addr, rest, hlt, hmod, hi | ⟨data, hi⟩⟩
    · exact ⟨_, (hstep _).mpr ⟨rfl, hp, _, rest, hi, addr, hlt, hmod, .inl rfl⟩⟩
    · exact ⟨_, (hstep _).mpr ⟨rfl, hp, _, rest, hi, addr, hlt, hmod, .inr ⟨data, rfl⟩⟩⟩
  · rw [stepOver_refused_iff, hstep]

/-- GETBLK leaves no command running (R179, R41). -/
theorem getblk_phase (T : Config.Tables) (hc : Bool) (s : State) : (getblk T hc s).phase = .idle :=
  getblk_ind T hc s (fun _ => True) (fun t => t.phase = .idle) (fun _ => rfl) (fun _ => trivial) (fun _ _ _ _ _ => rfl)
    (fun _ _ _ _ _ _ _ _ _ => ⟨fun _ => rfl, fun _ _ => rfl, fun _ _ _ => rfl, fun _ _ _ => trivial⟩)

/-- A command word issued between commands leaves no command running. -/
theorem CmdEffect.phase_eq_idle {T : Config.Tables} {s t : State} (h : CmdEffect T s t) (hp : s.phase = .idle) :
    t.phase = .idle := by
  cases h with
  | getblk hc => exact getblk_phase T hc s
  | _ => simpa using hp

/-- A host action taken between commands leaves no command running. -/
theorem hostActionOver_phase_eq_idle {T : Config.Tables} {a : HostAction} {s t : State} (hp : s.phase = .idle)
    (h : hostActionOver T a s = .next t) : t.phase = .idle := by
  rcases hostActionBy_cases (runPlacedOver T) a s with
    ⟨-, e⟩ | ⟨x, b, e⟩ | ⟨v, e⟩ | e | ⟨cw, -, e⟩ | e <;> rw [hostActionOver, e] at h
  · cases h; rfl
  · cases h; exact hp
  · cases h; exact hp
  · cases h; exact hp
  · obtain ⟨u, hu, heff⟩ := runPlacedOver_cmd_effect T cw s
    rw [hu] at h
    cases h
    exact heff.phase_eq_idle hp
  · cases h

/-- Between commands a step ends between commands, in any configuration. -/
theorem stepOver_phase_eq_idle {T : Config.Tables} {s t : State} (hp : s.phase = .idle) (h : stepOver T s = .next t) :
    t.phase = .idle := by
  cases hi : s.inbox with
  | nil =>
    rw [stepOver, fetchAndRunOver, fetchAndRunBy_idle_nil _ hp hi] at h
    cases h
    exact hp
  | cons a rest =>
    rw [stepOver, fetchAndRunOver, fetchAndRunBy_idle_cons _ hp hi] at h
    exact hostActionOver_phase_eq_idle (s := { s with inbox := rest }) hp h

/-- Settles O50: the one command that runs symbols, GETBLK, runs to its end. -/
theorem commandsCompleteInOneStep : Obligations.CommandsCompleteInOneStep := by
  intro s t hp
  refine ⟨fun h => ?_, fun T h => stepOver_phase_eq_idle hp h⟩
  rw [← stepOver_tables] at h
  exact stepOver_phase_eq_idle hp h

-- The datagram writes

/-- A bus write at CMD is the command (R37, R38). -/
theorem hostActionBy_writeReg_zero (run : Runner) (cw : Word) (s : State) :
    hostActionBy run (.writeReg 0 cw) s = run (.cmd cw) s := rfl

/-- A bus write in the DGM window is the write of its low byte (R37, R43). -/
theorem hostActionBy_writeReg_dgm (run : Runner) (a : BitVec 16) (data : Word) (s : State) :
    hostActionBy run (.writeReg (BitVec.ofNat 17 (0x10000 + a.toNat)) data) s =
      .next (hostWriteDgm a (BitVec.ofNat 8 data.toNat) s) := by
  have haddr : (BitVec.ofNat 17 (0x10000 + a.toNat)).toNat = 0x10000 + a.toNat := by
    have := a.isLt
    rw [BitVec.toNat_ofNat]
    omega
  have hbyte : data.extractLsb' 0 8 = BitVec.ofNat 8 data.toNat := by
    apply BitVec.eq_of_toNat_eq
    rw [BitVec.extractLsb'_toNat, Nat.shiftRight_zero, BitVec.toNat_ofNat]
  simp [hostActionBy, hostWriteRegBy, dgmWindow, haddr, hbyte]

/-- What DGM reads after the host's write of a byte (R51). -/
theorem dgmCell_hostWriteDgm (a : BitVec 16) (b : Byte) (s : State) (k : Nat) :
    dgmCell (hostWriteDgm a b s) k = if k = a.toNat then b else dgmCell s k := by
  rw [dgmCell, hostWriteDgm_dgm, memLookup_memWrite]
  split_ifs <;> rfl

/-- Settles O43, clause by clause from what a step does in each situation it can find. -/
theorem stepRunsTheDecodedInstruction : Obligations.StepRunsTheDecodedInstruction := by
  have hact : ∀ {s : State} {a : HostAction} {rest : List HostAction}, s.phase = .idle → s.inbox = a :: rest →
      ∀ T, stepOver T s = hostActionOver T a { s with inbox := rest } := fun hp hi T =>
    fetchAndRunBy_idle_cons (runPlacedOver T) hp hi
  refine ⟨fun s cw rest i hp hi hd => ?_, fun s p i hf hi hd => ?_, fun s a rest hp hi => ⟨?_, hact hp hi⟩,
    fun s cw rest hp hi hill => ?_, fun s a b data rest hp hi => ?_, fun T s p hf hi => fetchAndRunBy_symbol _ hf hi⟩
  · exact (fetchAndRunBy_idle_cons runPlaced hp hi).trans (runPlaced_ok (p := .cmd cw) hd _)
  · exact (fetchAndRunBy_symbol runPlaced hf hi).trans (runPlaced_ok hd s)
  · exact fetchAndRunBy_idle_cons runPlaced hp hi
  · rw [← stepOver_tables]
    rcases hi with hi | hi
    · rw [hact hp hi, hostActionOver_cmd_illegal tables hill]
    · rw [hact hp hi, hostActionOver, hostActionBy_writeReg_zero]
      exact hostActionOver_cmd_illegal tables hill _
  · have hstep : step s = .next (hostWriteDgm a b { s with inbox := rest }) := by
      rcases hi with hi | ⟨hi, rfl⟩
      · exact fetchAndRunBy_idle_cons runPlaced hp hi
      · exact (fetchAndRunBy_idle_cons runPlaced hp hi).trans (hostActionBy_writeReg_dgm runPlaced a data _)
    refine ⟨_, hstep, rfl, ?_, fun k hk => ?_⟩
    · rw [dgmCell_hostWriteDgm, if_pos rfl]
    · rw [dgmCell_hostWriteDgm, if_neg hk]
      rfl

end Sys2Proof.Machine
end

section
/-! PROOFS. GETBLK as the iteration of one function, the symbol at the cursor: what every symbol keeps, GETBLK keeps
(R92, R170, R173). -/

namespace Sys2Proof.Machine

-- An equation for each case of a symbol

theorem dcSymbol_of_pairs (T : Config.Tables) (d : BitVec 10) {s : State} (h : s.dconly = false) :
    dcSymbol T d s = awaitRun 1 (writeBlk 0 (dequant d.toNat (T.quant 0)) (skip 10 s)) := by
  simp [dcSymbol, hasCoefficients, h]

theorem dcSymbol_of_dcOnly (T : Config.Tables) (d : BitVec 10) {s : State} (h : s.dconly = true) :
    dcSymbol T d s = finishGetblk (writeBlk 0 (dequant d.toNat (T.quant 0)) (skip 10 s)) := by
  simp [dcSymbol, hasCoefficients, h]

theorem runSymbol_of_valid {e : Config.RunEntry} (h : e.valid = true) (s : State) :
    runSymbol e s = awaitLevel e.run (skip e.nbits (fill 12 s)) := by
  simp [runSymbol, h]

theorem runSymbol_of_invalid {e : Config.RunEntry} (h : e.valid = false) (s : State) :
    runSymbol e s = failGetblk .badRun (fill 12 s) := by
  simp [runSymbol, h]

theorem levSymbol_of_invalid (T : Config.Tables) {f : Config.LevEntry} (h : f.valid = false) (s : State) :
    levSymbol T f s = failGetblk .badLevel (fill 15 s) := by
  simp [levSymbol, h]

theorem levSymbol_of_eob (T : Config.Tables) {f : Config.LevEntry} (h : f.valid = true) (he : f.eob = true)
    (s : State) :
    levSymbol T f s = finishGetblk (skip f.nbits (fill 15 s)) := by
  simp [levSymbol, h, he]

theorem levSymbol_of_place (T : Config.Tables) {f : Config.LevEntry} (h : f.valid = true) (he : f.eob = false)
    {s : State} (hz : s.zz + s.run < 64) :
    levSymbol T f s = awaitRun (s.zz + s.run + 1) (writeBlk (T.zigzag ⟨s.zz + s.run, hz⟩)
      (dequant f.value (T.quant (T.zigzag ⟨s.zz + s.run, hz⟩))) (skip f.nbits (fill 15 s))) := by
  simp [levSymbol, storeLevel, h, he, Nat.le_of_lt_succ hz]

theorem levSymbol_of_overrun (T : Config.Tables) {f : Config.LevEntry} (h : f.valid = true) (he : f.eob = false)
    {s : State} (hz : 63 < s.zz + s.run) :
    levSymbol T f s = failGetblk .overrun (skip f.nbits (fill 15 s)) := by
  simp [levSymbol, storeLevel, h, he, Nat.not_le.mpr hz]

-- The symbol at the cursor

/-- The state the symbol at the cursor leaves; between commands there is none. `runPlacedOver_of_fetchSymbol` ties it to
the machine. -/
def symbolAt (T : Config.Tables) (s : State) : State :=
  match s.phase with
  | .idle => s
  | .dc => dcSymbol T (dcWindow s) s
  | .run => runSymbol (T.runTab (runWindow s)) s
  | .level => levSymbol T (T.levTab (levWindow s)) s

theorem symbolAt_idle (T : Config.Tables) {s : State} (h : s.phase = .idle) : symbolAt T s = s := by
  simp only [symbolAt, h]

theorem symbolAt_dc (T : Config.Tables) {s : State} (h : s.phase = .dc) : symbolAt T s = dcSymbol T (dcWindow s) s := by
  simp only [symbolAt, h]

theorem symbolAt_run (T : Config.Tables) {s : State} (h : s.phase = .run) :
    symbolAt T s = runSymbol (T.runTab (runWindow s)) s := by
  simp only [symbolAt, h]

theorem symbolAt_level (T : Config.Tables) {s : State} (h : s.phase = .level) :
    symbolAt T s = levSymbol T (T.levTab (levWindow s)) s := by
  simp only [symbolAt, h]

/-- Running the window fetched leaves what the symbol at the cursor leaves. -/
theorem runPlacedOver_of_fetchSymbol (T : Config.Tables) {s : State} {p : Placed} (hf : fetchSymbol s = some p) :
    runPlacedOver T p s = .next (symbolAt T s) := by
  cases hp : s.phase <;> simp only [fetchSymbol, hp, Option.some.injEq, reduceCtorEq] at hf <;> subst hf
  · rw [symbolAt_dc T hp]; rfl
  · rw [symbolAt_run T hp]; rfl
  · rw [symbolAt_level T hp]; rfl

/-- The pair loop is at most two symbols for each unit of fuel. -/
theorem pairLoop_eq_iterate (T : Config.Tables) (fuel : Nat) (s : State) (hp : s.phase = .run) :
    ∃ k ≤ 2 * fuel, pairLoop T fuel s = (symbolAt T)^[k] s := by
  induction fuel generalizing s with
  | zero => exact ⟨0, le_rfl, rfl⟩
  | succ fuel ih =>
    rw [pairLoop_succ, ← symbolAt_run T hp]
    by_cases hlevel : (symbolAt T s).phase = .level
    · rw [if_pos hlevel, ← symbolAt_level T hlevel]
      by_cases hrun : (symbolAt T (symbolAt T s)).phase = .run
      · obtain ⟨k, hk, e⟩ := ih _ hrun
        exact ⟨k + 2, by omega, (if_pos hrun).trans e⟩
      · exact ⟨2, by omega, if_neg hrun⟩
    · exact ⟨1, by omega, if_neg hlevel⟩

/-- GETBLK is the DC field and at most 64 pairs, symbol by symbol (R170, R179). -/
theorem getblk_eq_iterate (T : Config.Tables) (hc : Bool) (s : State) :
    getblk T hc s = (symbolAt T)^[129] (startGetblk hc s) := by
  obtain ⟨k, hk, e⟩ : ∃ k ≤ 129, getblk T hc s = (symbolAt T)^[k] (startGetblk hc s) := by
    have hdc : dcSymbol T (dcWindow (startGetblk hc s)) (startGetblk hc s) = symbolAt T (startGetblk hc s) :=
      (symbolAt_dc T rfl).symm
    simp only [getblk, hdc]
    split_ifs with hrun
    · obtain ⟨k, hk, e⟩ := pairLoop_eq_iterate T 64 _ hrun
      exact ⟨k + 1, by omega, e⟩
    · exact ⟨1, by omega, rfl⟩
  have hfixed := Function.iterate_fixed (symbolAt_idle T (getblk_phase T hc s)) (129 - k)
  rw [← hfixed, e, ← Function.iterate_add_apply, Nat.sub_add_cancel hk]

/-- Where the symbols have ended the block, GETBLK has. -/
theorem getblk_eq_of_iterate {T : Config.Tables} {hc : Bool} {s t : State} {k : Nat}
    (h : (symbolAt T)^[k] (startGetblk hc s) = t) (ht : t.phase = .idle) : getblk T hc s = t := by
  have hk := Function.iterate_fixed (symbolAt_idle T (getblk_phase T hc s)) k
  have h129 := Function.iterate_fixed (symbolAt_idle T ht) 129
  rw [← hk, ← h129, getblk_eq_iterate, ← h, ← Function.iterate_add_apply, ← Function.iterate_add_apply, Nat.add_comm]

/-- What every symbol keeps of two states, GETBLK keeps. -/
theorem getblk_rel {T : Config.Tables} {R : State → State → Prop}
    (hsym : ∀ s u, R s u → R (symbolAt T s) (symbolAt T u)) {hc : Bool} {s u : State}
    (h : R (startGetblk hc s) (startGetblk hc u)) : R (getblk T hc s) (getblk T hc u) := by
  have hall : ∀ k, R ((symbolAt T)^[k] (startGetblk hc s)) ((symbolAt T)^[k] (startGetblk hc u)) := fun k => by
    induction k with
    | zero => exact h
    | succ k ih =>
      rw [Function.iterate_succ_apply', Function.iterate_succ_apply']
      exact hsym _ _ ih
  rw [getblk_eq_iterate, getblk_eq_iterate]
  exact hall 129

/-- What every symbol keeps, GETBLK keeps. -/
theorem getblk_inv {T : Config.Tables} {I : State → Prop} (hsym : ∀ s, I s → I (symbolAt T s)) {hc : Bool} {s : State}
    (h : I (startGetblk hc s)) : I (getblk T hc s) :=
  getblk_rel (R := fun s _ => I s) (fun s _ => hsym s) (u := s) h

/-- What the symbol at the cursor can do, each with what brings it about (R160, R173 to R177). -/
inductive SymbolEffect (T : Config.Tables) (s : State) : State → Prop
  | idle (hp : s.phase = .idle) : SymbolEffect T s s
  | dcPairs (hp : s.phase = .dc) (hd : s.dconly = false) : SymbolEffect T s
      (awaitRun 1 (writeBlk 0 (dequant (dcWindow s).toNat (T.quant 0)) (skip 10 s)))
  | dcOnly (hp : s.phase = .dc) (hd : s.dconly = true) : SymbolEffect T s
      (finishGetblk (writeBlk 0 (dequant (dcWindow s).toNat (T.quant 0)) (skip 10 s)))
  | run (hp : s.phase = .run) (hv : (T.runTab (runWindow s)).valid = true) : SymbolEffect T s
      (awaitLevel (T.runTab (runWindow s)).run (skip (T.runTab (runWindow s)).nbits (fill 12 s)))
  | badRun (hp : s.phase = .run) : SymbolEffect T s (failGetblk .badRun (fill 12 s))
  | badLevel (hp : s.phase = .level) : SymbolEffect T s (failGetblk .badLevel (fill 15 s))
  | eob (hp : s.phase = .level) (hv : (T.levTab (levWindow s)).valid = true) : SymbolEffect T s
      (finishGetblk (skip (T.levTab (levWindow s)).nbits (fill 15 s)))
  | place (hp : s.phase = .level) (hv : (T.levTab (levWindow s)).valid = true) (p : Fin 64) (v : Word)
      (hz : s.zz + s.run < 64) : SymbolEffect T s
      (awaitRun (s.zz + s.run + 1) (writeBlk p v (skip (T.levTab (levWindow s)).nbits (fill 15 s))))
  | overrun (hp : s.phase = .level) (hv : (T.levTab (levWindow s)).valid = true) : SymbolEffect T s
      (failGetblk .overrun (skip (T.levTab (levWindow s)).nbits (fill 15 s)))

/-- The symbol at the cursor has one of these effects. -/
theorem symbolAt_effect (T : Config.Tables) (s : State) : SymbolEffect T s (symbolAt T s) := by
  cases hp : s.phase with
  | idle =>
    rw [symbolAt_idle T hp]
    exact .idle hp
  | dc =>
    rw [symbolAt_dc T hp]
    cases hd : s.dconly with
    | false => exact dcSymbol_of_pairs T _ hd ▸ .dcPairs hp hd
    | true => exact dcSymbol_of_dcOnly T _ hd ▸ .dcOnly hp hd
  | run =>
    rw [symbolAt_run T hp]
    cases hv : (T.runTab (runWindow s)).valid with
    | false => exact runSymbol_of_invalid hv s ▸ .badRun hp
    | true => exact runSymbol_of_valid hv s ▸ .run hp hv
  | level =>
    rw [symbolAt_level T hp]
    cases hv : (T.levTab (levWindow s)).valid with
    | false => exact levSymbol_of_invalid T hv s ▸ .badLevel hp
    | true =>
      cases he : (T.levTab (levWindow s)).eob with
      | true => exact levSymbol_of_eob T hv he s ▸ .eob hp hv
      | false =>
        by_cases hz : s.zz + s.run < 64
        · exact levSymbol_of_place T hv he hz ▸ .place hp hv _ _ hz
        · exact levSymbol_of_overrun T hv he (Nat.le_of_not_lt hz) ▸ .overrun hp hv

-- The machine's steps in a block

/-- A symbol takes none of the host's waiting actions. -/
theorem SymbolEffect.inbox {T : Config.Tables} {s t : State} (h : SymbolEffect T s t) : t.inbox = s.inbox := by
  cases h <;> simp [finishGetblk, failGetblk]

/-- With no host action waiting a step is the symbol at the cursor; between commands both hold the state. -/
theorem stepOver_inbox_nil (T : Config.Tables) {s : State} (hi : s.inbox = []) :
    stepOver T s = .next (symbolAt T s) := by
  cases hf : fetchSymbol s with
  | none =>
    have hp := (fetchSymbol_eq_none s).mp hf
    rw [symbolAt_idle T hp]
    exact fetchAndRunBy_idle_nil _ hp hi
  | some p => exact (fetchAndRunBy_symbol _ hf (by simp [hi])).trans (runPlacedOver_of_fetchSymbol T hf)

/-- With no host action waiting, steps are symbols one after the other. -/
theorem stepsBy_inbox_nil (T : Config.Tables) (k : Nat) {s : State} (hi : s.inbox = []) :
    stepsBy (stepOver T) k s = .next ((symbolAt T)^[k] s) := by
  induction k generalizing s with
  | zero => rfl
  | succ k ih =>
    rw [stepsBy, stepOver_inbox_nil T hi]
    exact ih (by rw [(symbolAt_effect T s).inbox, hi])

/-- Settles O37: GETBLK is 129 symbols, the idle machine holding its state after the last of them. -/
theorem getblkIsItsSymbolSteps : Obligations.GetblkIsItsSymbolSteps := by
  intro s hc hi
  have hsteps : ∀ T, stepsBy (stepOver T) 129 (startGetblk hc s) = .next (getblk T hc s) := fun T => by
    rw [stepsBy_inbox_nil T 129 (s := startGetblk hc s) hi, getblk_eq_iterate]
  refine ⟨⟨_, 129, rfl, le_rfl, ?_⟩, fun T => ⟨_, 129, rfl, le_rfl, hsteps T⟩⟩
  rw [← stepOver_tables]
  exact hsteps tables

end Sys2Proof.Machine
end

section
/-! PROOFS. The machine's invariant (R25, R33, R41, R50): every symbol, every command and every host action keeps it. -/

namespace Sys2Proof.Machine

-- What the machine rests on of the tables

/-- The ranges of R131 and R145 that the machine's bookkeeping rests on: an entry's bits are in its window, and a run is
at most 63. -/
structure EntriesInRange (T : Config.Tables) : Prop where
  run_nbits : ∀ w, (T.runTab w).valid = true → (T.runTab w).nbits ≤ 12
  run_run : ∀ w, (T.runTab w).valid = true → (T.runTab w).run ≤ 63
  lev_nbits : ∀ w, (T.levTab w).valid = true → (T.levTab w).nbits ≤ 15

/-- A well-formed configuration keeps to the ranges (R131, R145). -/
theorem entriesInRange_of_tablesWf {T : Config.Tables} (h : tablesWf T) : EntriesInRange T := by
  obtain ⟨hrun, hlev, -⟩ := h
  have hrun' : ∀ w, (T.runTab w).valid = true → (T.runTab w).nbits ≤ 12 ∧ (T.runTab w).run ≤ 63 := fun w hv => by
    have := hrun w
    rw [if_pos hv] at this
    obtain ⟨-, hn, hr, -⟩ := this
    exact ⟨hn, hr⟩
  refine ⟨fun w hv => (hrun' w hv).1, fun w hv => (hrun' w hv).2, fun w hv => ?_⟩
  have := hlev w
  rw [if_pos hv] at this
  obtain ⟨-, hn, -⟩ := this
  exact hn

/-- The entry of a run class: a code of at most 12 bits, at least one, and a run of at most 63 (R133 to R139). -/
theorem runEntryOf_range {i : Instr} {e : Config.RunEntry} (h : runEntryOf i = some e) (hv : e.valid = true) :
    1 ≤ e.nbits ∧ e.nbits ≤ 12 ∧ e.run ≤ 63 := by
  cases i <;> cases h <;> simp [runEntry, invalidRunEntry] at hv ⊢ <;> omega

/-- The entry of a level class: a code of two to 15 bits (R147 to R154). -/
theorem levEntryOf_range {i : Instr} {f : Config.LevEntry} (h : levEntryOf i = some f) (hv : f.valid = true) :
    2 ≤ f.nbits ∧ f.nbits ≤ 15 := by
  cases i <;> cases h <;> simp [levEntry, eobEntry, invalidLevEntry] at hv ⊢

/-- The default tables keep to the ranges, their entries being those of the classes. -/
theorem entriesInRange_tables : EntriesInRange tables where
  run_nbits w hv := (runEntryOf_range (runEntryOf_decodeRun w) hv).2.1
  run_run w hv := (runEntryOf_range (runEntryOf_decodeRun w) hv).2.2
  lev_nbits w hv := (levEntryOf_range (levEntryOf_decodeLev w) hv).2

-- The cursor invariant (R25)

/-- A fill keeps the cursor invariant (R110, R115). -/
theorem CursorInv.fill {s : State} (h : CursorInv s) {n : Nat} (hn : n ≤ 32) : CursorInv (fill n s) := by
  by_cases hc : n ≤ s.cnt.toNat
  · rwa [fill_of_le hc]
  obtain ⟨hacc, hmod, hoff⟩ := h
  have hcnt : s.cnt.toNat ≤ 31 := by omega
  rw [fill_of_lt (by omega)]
  refine ⟨?_, ?_, ?_⟩
  · rw [refill_acc_toNat hcnt hacc, refill_cnt_toNat hcnt, pow_add]
    have := memRead4_lt s s.offset.toNat
    omega
  all_goals rw [refill_offset_toNat, Config.offsetSat]; omega

/-- A skip keeps the cursor invariant (R112). -/
theorem CursorInv.skip {s : State} (h : CursorInv s) {n : Nat} (hn : n ≤ 32) : CursorInv (skip n s) := by
  obtain ⟨-, hmod, hoff⟩ := h.fill hn
  refine ⟨?_, hmod, hoff⟩
  rw [Machine.skip, consume_acc_toNat, consume_cnt_toNat]
  exact Nat.mod_lt _ (Nat.two_pow_pos _)

/-- A rewound cursor meets the invariant (R65). -/
theorem cursorInv_rewind (s : State) : CursorInv (rewind s) := by
  simp [CursorInv]

-- The status invariant (R33, R190)

/-- The status invariant depends on ERR and CAUSE alone. -/
theorem StatusInv.congr {s t : State} (h : StatusInv s) (he : t.err = s.err) (hc : t.cause = s.cause) :
    StatusInv t := by
  unfold StatusInv
  rwa [he, hc]

/-- An error leaves ERR set with one of the four codes (R190, R196). -/
theorem statusInv_takeError (c : Cause) (s : State) : StatusInv (takeError c s) := by
  cases c <;> simp [StatusInv, causeCode]

-- The ends of a block

/-- An error inside GETBLK keeps the invariant (R196). -/
theorem machineInv_failGetblk {t : State} (c : Cause) (hm : memWf t.dgm = true) (hc : CursorInv t) :
    MachineInv (failGetblk c t) :=
  ⟨hm, hc, statusInv_takeError c t, rfl, rfl⟩

/-- The end of a GETBLK without error keeps the invariant (R35). -/
theorem machineInv_finishGetblk {t : State} (hm : memWf t.dgm = true) (hc : CursorInv t) (hs : StatusInv t) :
    MachineInv (finishGetblk t) :=
  ⟨hm, hc, hs, rfl, rfl⟩

/-- Every symbol keeps the invariant: i rises to at most 64, since a value is stored at most at index 63 (R41, R175). -/
theorem SymbolEffect.machineInv {T : Config.Tables} (hT : EntriesInRange T) {s t : State} (h : SymbolEffect T s t)
    (hs : MachineInv s) : MachineInv t := by
  have hinv := hs
  obtain ⟨hmem, hcur, hst, hph⟩ := hs
  have hskip : ∀ n, n ≤ 15 → CursorInv (Machine.skip n (Machine.fill 15 s)) := fun n hn =>
    (hcur.fill (by decide)).skip (by omega)
  cases h with
  | idle => exact hinv
  | dcPairs hp hd =>
    simp only [PhaseInv, hp] at hph
    exact ⟨by simpa using hmem, hcur.skip (by decide), hst.congr (by simp) (by simp), by simp [PhaseInv, hd, hph]⟩
  | dcOnly =>
    exact machineInv_finishGetblk (by simpa using hmem) (hcur.skip (by decide)) (hst.congr (by simp) (by simp))
  | run hp hv =>
    simp only [PhaseInv, hp] at hph
    have hn := hT.run_nbits _ hv
    exact ⟨by simpa using hmem, (hcur.fill (by decide)).skip (by omega), hst.congr (by simp) (by simp),
      by simp [PhaseInv, hph, hT.run_run _ hv]⟩
  | badRun => exact machineInv_failGetblk _ (by simpa using hmem) (hcur.fill (by decide))
  | badLevel => exact machineInv_failGetblk _ (by simpa using hmem) (hcur.fill (by decide))
  | eob hp hv =>
    exact machineInv_finishGetblk (by simpa using hmem) (hskip _ (hT.lev_nbits _ hv)) (hst.congr (by simp) (by simp))
  | place hp hv p v hz =>
    simp only [PhaseInv, hp] at hph
    exact ⟨by simpa using hmem, hskip _ (hT.lev_nbits _ hv), hst.congr (by simp) (by simp),
      by simp [PhaseInv, hph]; omega⟩
  | overrun hp hv => exact machineInv_failGetblk _ (by simpa using hmem) (hskip _ (hT.lev_nbits _ hv))

/-- GETBLK keeps the invariant. -/
theorem machineInv_getblk {T : Config.Tables} (hT : EntriesInRange T) (hc : Bool) {s : State} (h : MachineInv s) :
    MachineInv (getblk T hc s) := by
  obtain ⟨hmem, hcur, hst, -⟩ := h
  exact getblk_inv (fun s => (symbolAt_effect T s).machineInv hT) ⟨hmem, hcur, hst, rfl, rfl, rfl⟩

/-- Every command word issued between commands keeps the invariant. -/
theorem CmdEffect.machineInv {T : Config.Tables} (hT : EntriesInRange T) {s t : State} (h : CmdEffect T s t)
    (hs : MachineInv s) (hp : s.phase = .idle) : MachineInv t := by
  have hinv := hs
  obtain ⟨hmem, hcur, hst, hph⟩ := hs
  simp only [PhaseInv, hp] at hph
  cases h with
  | nop => exact hinv
  | bind len => exact ⟨hmem, cursorInv_rewind s, by simp [StatusInv], by simp [PhaseInv, hp, hph]⟩
  | read n hn =>
    exact ⟨by simpa using hmem, hcur.skip hn, hst.congr (by simp) (by simp), by simp [PhaseInv, hp, hph]⟩
  | peek n hn =>
    exact ⟨by simpa using hmem, hcur.fill hn, hst.congr (by simp) (by simp), by simp [PhaseInv, hp, hph]⟩
  | align =>
    exact ⟨by simpa using hmem, hcur.skip (by omega), hst.congr (by simp) (by simp), by simp [PhaseInv, hp, hph]⟩
  | getblk hc => exact machineInv_getblk hT hc hinv
  | illegal => exact ⟨hmem, hcur, statusInv_takeError _ s, by simp [PhaseInv, hp, hph]⟩

/-- A reset gives a state that meets the invariant (R220). -/
theorem machineInv_hostReset {s : State} (h : memWf s.dgm = true) : MachineInv (hostReset s) :=
  ⟨h, cursorInv_rewind s, by simp [StatusInv], rfl, rfl⟩

/-- Every host action taken between commands keeps the invariant. -/
theorem machineInv_hostActionOver {T : Config.Tables} (hT : EntriesInRange T) {a : HostAction} {s t : State}
    (hs : MachineInv s) (hp : s.phase = .idle) (h : hostActionOver T a s = .next t) : MachineInv t := by
  have hinv := hs
  obtain ⟨hmem, hcur, hst, hph⟩ := hs
  rcases hostActionBy_cases (runPlacedOver T) a s with
    ⟨-, e⟩ | ⟨x, b, e⟩ | ⟨v, e⟩ | e | ⟨cw, -, e⟩ | e <;> rw [hostActionOver, e] at h
  · cases h; exact machineInv_hostReset hmem
  · cases h; exact ⟨memWf_hostWriteDgm x b s hmem, hcur, hst, hph⟩
  · cases h; exact ⟨hmem, hcur, hst, hph⟩
  · cases h; exact hinv
  · obtain ⟨u, hu, heff⟩ := runPlacedOver_cmd_effect T cw s
    rw [hu] at h
    cases h
    exact heff.machineInv hT hinv hp
  · cases h

/-- Every step keeps the invariant, where the tables keep to their ranges. -/
theorem machineInv_stepOver {T : Config.Tables} (hT : EntriesInRange T) {s t : State} (hs : MachineInv s)
    (h : stepOver T s = .next t) : MachineInv t := by
  rw [stepOver, fetchAndRunOver] at h
  rcases step_situations s with ⟨hp, hi⟩ | ⟨hp, a, rest, hi⟩ | ⟨p, rest, hf, hi⟩ | ⟨p, hf, hi⟩
  · rw [fetchAndRunBy_idle_nil _ hp hi] at h
    cases h
    exact hs
  · rw [fetchAndRunBy_idle_cons _ hp hi] at h
    exact machineInv_hostActionOver hT (s := { s with inbox := rest }) hs hp h
  · rw [fetchAndRunBy_reset _ hf hi] at h
    cases h
    exact machineInv_hostReset (s := { s with inbox := rest }) hs.1
  · rw [fetchAndRunBy_symbol _ hf hi, runPlacedOver_of_fetchSymbol T hf] at h
    cases h
    exact (symbolAt_effect T s).machineInv hT hs

/-- Settles O56: the step keeps the invariant in each situation it can find, with only the tables' ranges used. -/
theorem everyStepKeepsTheInvariant : Obligations.EveryStepKeepsTheInvariant := by
  refine ⟨fun s t hs h => ?_, fun T hT s t hs h => machineInv_stepOver (entriesInRange_of_tablesWf hT) hs h⟩
  rw [← stepOver_tables] at h
  exact machineInv_stepOver entriesInRange_tables hs h

end Sys2Proof.Machine
end

section
/-! PROOFS. What GETBLK leaves alone, and how it ends (R170, R34, R35, R196). -/

namespace Sys2Proof.Machine

/-- What the GETBLK with operand hc that began in s has left alone at t, in the middle of its block: all but the cursor,
BLK and the transient state; and the flags it set at its start (R34, R35). -/
def BlockFrame (s : State) (hc : Bool) (t : State) : Prop :=
  t.dgm = s.dgm ∧ t.len = s.len ∧ t.result = s.result ∧ t.inbox = s.inbox ∧ t.rdata = s.rdata ∧ t.err = s.err ∧
    t.cause = s.cause ∧ t.dconly = !hc ∧ t.blkvalid = false

/-- An error ends the block with the frame kept (R196). -/
theorem BlockFrame.failGetblk_eq {s t : State} {hc : Bool} (h : BlockFrame s hc t) (c : Cause) :
    failGetblk c t = afterGetblk s (failGetblk c t) hc t.blk false true (causeCode c) := by
  obtain ⟨hdgm, hlen, hresult, hinbox, hrdata, -, -, hdconly, hblkvalid⟩ := h
  simp [failGetblk, takeError, endGetblk, afterGetblk, withCursor, hdgm, hlen, hresult, hinbox, hrdata, hdconly,
    hblkvalid]

/-- The end of the block without error keeps the frame (R35). -/
theorem BlockFrame.finishGetblk_eq {s t : State} {hc : Bool} (h : BlockFrame s hc t) :
    finishGetblk t = afterGetblk s (finishGetblk t) hc t.blk true s.err s.cause := by
  obtain ⟨hdgm, hlen, hresult, hinbox, hrdata, herr, hcause, hdconly, -⟩ := h
  simp [finishGetblk, setBlkvalid, endGetblk, afterGetblk, withCursor, hdgm, hlen, hresult, hinbox, hrdata, herr,
    hcause, hdconly]

/-- The two ways a GETBLK ends: without error, or, only with hc = 1, with one of the three errors of a block (R190). -/
def GetblkOutcome (s : State) (hc : Bool) (t : State) : Prop :=
  t = afterGetblk s t hc t.blk true s.err s.cause ∨
    (hc = true ∧ ∃ c : BitVec 4, 1 ≤ c.toNat ∧ c.toNat ≤ 3 ∧ t = afterGetblk s t hc t.blk false true c)

theorem getblkOutcome_finishGetblk {s t : State} {hc : Bool} (h : BlockFrame s hc t) :
    GetblkOutcome s hc (finishGetblk t) :=
  .inl h.finishGetblk_eq

theorem getblkOutcome_failGetblk {s t : State} (h : BlockFrame s true t) {c : Cause} (hc : c ≠ .illegalCmd) :
    GetblkOutcome s true (failGetblk c t) := by
  cases c with
  | illegalCmd => exact absurd rfl hc
  | _ => exact .inr ⟨rfl, _, by decide, by decide, h.failGetblk_eq _⟩

/-- GETBLK in any configuration ends in one of the two ways. -/
theorem getblkOutcome_getblk (T : Config.Tables) (hc : Bool) (s : State) : GetblkOutcome s hc (getblk T hc s) := by
  cases hc with
  | false =>
    refine getblk_ind T false s (fun _ => False) _ (fun _ => getblkOutcome_finishGetblk ?_) (by simp) (by simp)
      (by simp)
    simp [BlockFrame]
  | true =>
    refine getblk_ind T true s (BlockFrame s true) _ (by simp) (fun _ => ?_)
      (fun t e hI _ _ => getblkOutcome_failGetblk ?_ (by decide)) (fun t e u f hI _ _ hu _ => ?_)
    · simp [BlockFrame]
    · simpa [BlockFrame] using hI
    · subst hu
      refine ⟨fun _ => getblkOutcome_failGetblk ?_ (by decide), fun _ _ => getblkOutcome_finishGetblk ?_,
        fun _ _ _ => getblkOutcome_failGetblk ?_ (by decide), fun _ _ _ => ?_⟩
      all_goals simpa [BlockFrame] using hI

/-- Settles O32: the frame holds at every pair the loop reaches, and each way to end keeps it. -/
theorem getblkOutcomeAndFrame : Obligations.GetblkOutcomeAndFrame := fun s hc =>
  ⟨⟨_, rfl, getblkOutcome_getblk tables hc s⟩, fun T => ⟨_, rfl, getblkOutcome_getblk T hc s⟩⟩

end Sys2Proof.Machine
end

section
/-! PROOFS. The cursor in the stream (R26, R110 to R114, R120), and the entries a configuration reads there (R173). -/

namespace Sys2Proof.Machine

/-- A refill keeps the position: its word is the next 32 bits of the stream, zeros past the end (R52, R110, R124). -/
theorem AtPos.refill {s : State} {P : Nat} (h : AtPos s P) (hc : s.cnt.toNat ≤ 31) : AtPos (refill s) P := by
  obtain ⟨hacc, hmod, hoff, hpos⟩ := h
  have hword : memRead4 s s.offset.toNat = streamVal s (P + s.cnt.toNat) 32 := by
    rcases hpos with hpos | ⟨hsat, hge, -⟩
    · rw [← hpos, streamVal_word]
    · have := s.len.isLt
      simp only [Config.offsetSat] at hsat hge
      rw [memRead4_of_len_le (by omega), streamVal_past_end (by omega)]
  have hstream : ∀ p n, streamVal (Machine.refill s) p n = streamVal s p n := streamVal_congr rfl rfl
  unfold AtPos
  rw [refill_acc_toNat hc (hacc ▸ streamVal_lt s P _), refill_cnt_toNat hc, refill_offset_toNat, hstream, hacc, hword,
    ← streamVal_add]
  simp only [Config.offsetSat, true_and] at hoff hpos ⊢
  refine ⟨?_, ?_, ?_⟩ <;> omega

/-- A fill keeps the position (R111). -/
theorem AtPos.fill {s : State} {P n : Nat} (h : AtPos s P) (hn : n ≤ 32) : AtPos (fill n s) P := by
  by_cases hc : n ≤ s.cnt.toNat
  · rwa [fill_of_le hc]
  · rw [fill_of_lt (by omega)]
    exact h.refill (by omega)

/-- n of the fetched bits consumed move the position by n (R112). -/
theorem AtPos.consume {s : State} {P n : Nat} (h : AtPos s P) (hn : n ≤ s.cnt.toNat) : AtPos (consume n s) (P + n) := by
  obtain ⟨hacc, hmod, hoff, hpos⟩ := h
  have hstream : ∀ p k, streamVal (Machine.consume n s) p k = streamVal s p k := streamVal_congr rfl rfl
  have hsplit := streamVal_add s P n (s.cnt.toNat - n)
  rw [Nat.add_sub_cancel' hn] at hsplit
  unfold AtPos
  rw [consume_acc_toNat, consume_cnt_toNat, hstream, hacc, hsplit, Nat.mul_comm, Nat.mul_add_mod,
    Nat.mod_eq_of_lt (streamVal_lt s _ _), consume_offset, show P + n + (s.cnt.toNat - n) = P + s.cnt.toNat by omega]
  exact ⟨rfl, hmod, hoff, hpos⟩

/-- A skip moves the position by its count (R113). -/
theorem AtPos.skip {s : State} {P n : Nat} (h : AtPos s P) (hn : n ≤ 32) : AtPos (skip n s) (P + n) :=
  (h.fill hn).consume (le_fill_cnt hn s)

/-- At position P a peek returns the stream's next bits (R114). -/
theorem AtPos.peekBits_eq {s : State} {P n : Nat} (h : AtPos s P) (hn : n ≤ 32) : peekBits n s = streamVal s P n := by
  obtain ⟨hacc, -⟩ := h.fill hn
  have hstream : ∀ p k, streamVal (Machine.fill n s) p k = streamVal s p k :=
    streamVal_congr (fill_dgm n s) (fill_len n s)
  have hsplit := streamVal_add s P n ((Machine.fill n s).cnt.toNat - n)
  rw [Nat.add_sub_cancel' (le_fill_cnt hn s)] at hsplit
  rw [peekBits, hacc, hstream, hsplit, Nat.shiftRight_eq_div_pow, Nat.mul_comm, Nat.mul_add_div (Nat.two_pow_pos _),
    Nat.div_eq_of_lt (streamVal_lt s _ _), Nat.add_zero, Nat.mod_eq_of_lt (streamVal_lt s P n)]

/-- The fetched bits end at a byte's boundary (R124). -/
theorem AtPos.add_cnt_mod {s : State} {P : Nat} (h : AtPos s P) : (P + s.cnt.toNat) % 8 = 0 := by
  obtain ⟨-, -, -, hpos⟩ := h
  omega

-- Updates that leave the datagram and the cursor alone leave the position

theorem atPos_iff_of_cursor {s t : State} {P : Nat} (hd : t.dgm = s.dgm) (hl : t.len = s.len) (ho : t.offset = s.offset)
    (ha : t.acc = s.acc) (hc : t.cnt = s.cnt) : AtPos t P ↔ AtPos s P :=
  ⟨fun h => AtPos_congr h hd.symm hl.symm ho.symm ha.symm hc.symm, fun h => AtPos_congr h hd hl ho ha hc⟩

@[simp] theorem atPos_startGetblk (hc : Bool) (s : State) (P : Nat) : AtPos (startGetblk hc s) P ↔ AtPos s P :=
  atPos_iff_of_cursor rfl rfl rfl rfl rfl
@[simp] theorem atPos_writeBlk (p : Fin 64) (v : Word) (s : State) (P : Nat) : AtPos (writeBlk p v s) P ↔ AtPos s P :=
  atPos_iff_of_cursor rfl rfl rfl rfl rfl
@[simp] theorem atPos_awaitRun (i : Nat) (s : State) (P : Nat) : AtPos (awaitRun i s) P ↔ AtPos s P :=
  atPos_iff_of_cursor rfl rfl rfl rfl rfl
@[simp] theorem atPos_awaitLevel (r : Nat) (s : State) (P : Nat) : AtPos (awaitLevel r s) P ↔ AtPos s P :=
  atPos_iff_of_cursor rfl rfl rfl rfl rfl
@[simp] theorem atPos_failGetblk (c : Cause) (s : State) (P : Nat) : AtPos (failGetblk c s) P ↔ AtPos s P :=
  atPos_iff_of_cursor rfl rfl rfl rfl rfl
@[simp] theorem atPos_finishGetblk (s : State) (P : Nat) : AtPos (finishGetblk s) P ↔ AtPos s P :=
  atPos_iff_of_cursor rfl rfl rfl rfl rfl
@[simp] theorem atPos_setResult (v : Nat) (s : State) (P : Nat) : AtPos (setResult v s) P ↔ AtPos s P :=
  atPos_iff_of_cursor rfl rfl rfl rfl rfl

-- The bits of an entry

/-- A valid run entry's bits consumed, where the tables keep to their ranges (R173). -/
theorem AtPos.skip_run {T : Config.Tables} (hT : EntriesInRange T) {s : State} {P : Nat} (h : AtPos s P) {w : BitVec 12}
    (hv : (T.runTab w).valid = true) :
    AtPos (Machine.skip (T.runTab w).nbits (Machine.fill 12 s)) (P + (T.runTab w).nbits) :=
  (h.fill (by decide)).skip ((hT.run_nbits w hv).trans (by decide))

/-- A valid level entry's bits consumed, where the tables keep to their ranges (R174). -/
theorem AtPos.skip_lev {T : Config.Tables} (hT : EntriesInRange T) {s : State} {P : Nat} (h : AtPos s P) {w : BitVec 15}
    (hv : (T.levTab w).valid = true) :
    AtPos (Machine.skip (T.levTab w).nbits (Machine.fill 15 s)) (P + (T.levTab w).nbits) :=
  (h.fill (by decide)).skip ((hT.lev_nbits w hv).trans (by decide))

end Sys2Proof.Machine
end

section
/-! PROOFS. How many bits GETBLK consumes (R180), and that what it leaves depends on the stream alone (R42). -/

namespace Sys2Proof.Machine

/-- A GETBLK that began at P reads pairs at t: each pair read took at most 12 + 15 bits and raised i. -/
def PairBits (P : Nat) (t : State) : Prop :=
  ∃ Q, AtPos t Q ∧ P + 10 ≤ Q ∧ Q + 27 ≤ P + 10 + 27 * t.zz ∧ t.zz ≤ 64 ∧ t.blkvalid = false

/-- The positions a GETBLK with operand hc that began at P can end at, where a pair that ends it takes at least `lo`
bits (R180). -/
def EndBits (hc : Bool) (lo P : Nat) (t : State) : Prop :=
  ∃ Q, AtPos t Q ∧ P + 10 ≤ Q ∧ Q ≤ P + 1738 ∧ (hc = false → Q = P + 10) ∧
    (hc = true → t.blkvalid = true → P + 10 + lo ≤ Q)

/-- GETBLK ends within the bounds, where the tables keep to their ranges. -/
theorem endBits_getblk {T : Config.Tables} (hT : EntriesInRange T) {lo : Nat}
    (hlo : ∀ w v, (T.runTab w).valid = true → (T.levTab v).valid = true → lo ≤ (T.runTab w).nbits + (T.levTab v).nbits)
    {s : State} {P : Nat} (h : AtPos s P) (hc : Bool) : EndBits hc lo P (getblk T hc s) := by
  have hdc : AtPos (skip 10 (startGetblk hc s)) (P + 10) := AtPos.skip (by simpa using h) (by decide)
  refine getblk_ind T hc s (fun t => hc = true ∧ PairBits P t) _ (fun hc0 => ?_) (fun hc1 => ⟨hc1, ?_⟩) ?_ ?_
  · exact ⟨P + 10, by simpa using hdc, le_rfl, by omega, fun _ => rfl, by simp [hc0]⟩
  · exact ⟨P + 10, by simpa using hdc, le_rfl, by simp, by simp, by simp⟩
  · rintro t e ⟨hc1, Q, hQ, hge, hle, hz, hb⟩ - -
    exact ⟨Q, by simpa using hQ.fill (by decide), hge, by omega, by simp [hc1], by simp [failGetblk, hb]⟩
  · rintro t e u f ⟨hc1, Q, hQ, hge, hle, hz, hb⟩ rfl hv hu rfl
    have hrun := hT.run_nbits _ hv
    have hbu : u.blkvalid = false := by simp [hu, hb]
    have huQ : AtPos u (Q + (T.runTab (runWindow t)).nbits) := by simpa [hu] using hQ.skip_run hT hv
    refine ⟨fun _ => ?_, fun hv2 _ => ?_, fun hv2 _ _ => ?_, fun hv2 _ _ => ⟨hc1, ?_⟩⟩
    · exact ⟨_, by simpa using huQ.fill (by decide), by omega, by omega, by simp [hc1], by simp [failGetblk, hbu]⟩
    all_goals
      have hlev := hT.lev_nbits _ hv2
      have hend := huQ.skip_lev hT hv2
    · have := hlo _ _ hv hv2
      exact ⟨_, by simpa using hend, by omega, by omega, by simp [hc1], fun _ _ => by omega⟩
    · exact ⟨_, by simpa using hend, by omega, by omega, by simp [hc1], by simp [failGetblk, hbu]⟩
    · exact ⟨_, by simpa using hend, by omega, by simp; omega, by simp; omega, by simp [hbu]⟩

/-- Settles O35: the bounds, at the default tables with the three bits of their shortest run and level codes. -/
theorem getblkConsumesBoundedBits : Obligations.GetblkConsumesBoundedBits := by
  intro s P hc h
  constructor
  · obtain ⟨Q, hQ, hge, hle, hdc, hpair⟩ := endBits_getblk entriesInRange_tables (lo := 3) (fun w v hw hv => by
      have := runEntryOf_range (runEntryOf_decodeRun w) hw
      have := levEntryOf_range (levEntryOf_decodeLev v) hv
      simp only [tables]
      omega) h hc
    exact ⟨_, Q, rfl, hQ, hge, hle, hdc, hpair⟩
  · intro T hT
    obtain ⟨Q, hQ, hge, hle, hdc, -⟩ :=
      endBits_getblk (entriesInRange_of_tablesWf hT) (lo := 0) (fun _ _ _ _ => Nat.zero_le _) h hc
    exact ⟨_, Q, rfl, hQ, hge, hle, hdc⟩

-- Two machines at one position of one datagram

/-- Two machines in the same block, over cursors at position P of one datagram. -/
structure SameBlock (P : Nat) (s u : State) : Prop where
  left : AtPos s P
  right : AtPos u P
  datagram : SameDatagram s u
  blk : s.blk = u.blk
  zz : s.zz = u.zz
  dconly : s.dconly = u.dconly
  blkvalid : s.blkvalid = u.blkvalid

/-- Two machines that read the same symbol next, or that have ended the same block with the same error if any. -/
structure SamePlace (s u : State) : Prop where
  block : ∃ P, SameBlock P s u
  phase : s.phase = u.phase
  run : s.run = u.run
  cause : s.phase = .idle → s.blkvalid = false → s.cause = u.cause

/-- Cursors at one position of one datagram look at the same window. -/
theorem peekBits_eq_of_atPos {s u : State} {P n : Nat} (hs : AtPos s P) (hu : AtPos u P) (hd : SameDatagram s u)
    (hn : n ≤ 32) : peekBits n s = peekBits n u := by
  rw [hs.peekBits_eq hn, hu.peekBits_eq hn, streamVal_congr hd.1 hd.2]

section
variable {P : Nat} {s u : State} (h : SameBlock P s u)
include h

theorem SameBlock.fill {n : Nat} (hn : n ≤ 32) : SameBlock P (fill n s) (fill n u) :=
  ⟨h.left.fill hn, h.right.fill hn, by simpa [SameDatagram] using h.datagram, by simp [h.blk], by simp [h.zz],
    by simp [h.dconly], by simp [h.blkvalid]⟩

theorem SameBlock.skip {n : Nat} (hn : n ≤ 32) : SameBlock (P + n) (skip n s) (skip n u) :=
  ⟨h.left.skip hn, h.right.skip hn, by simpa [SameDatagram] using h.datagram, by simp [h.blk], by simp [h.zz],
    by simp [h.dconly], by simp [h.blkvalid]⟩

theorem SameBlock.writeBlk (p : Fin 64) (v : Word) : SameBlock P (writeBlk p v s) (writeBlk p v u) :=
  ⟨by simpa using h.left, by simpa using h.right, h.datagram, by simp [h.blk], h.zz, h.dconly, h.blkvalid⟩

theorem SameBlock.awaitRun (i : Nat) : SamePlace (awaitRun i s) (awaitRun i u) :=
  ⟨⟨P, by simpa using h.left, by simpa using h.right, h.datagram, h.blk, rfl, h.dconly, h.blkvalid⟩, rfl, rfl, nofun⟩

theorem SameBlock.awaitLevel (r : Nat) : SamePlace (awaitLevel r s) (awaitLevel r u) :=
  ⟨⟨P, by simpa using h.left, by simpa using h.right, h.datagram, h.blk, h.zz, h.dconly, h.blkvalid⟩, rfl, rfl, nofun⟩

theorem SameBlock.failGetblk (c : Cause) : SamePlace (failGetblk c s) (failGetblk c u) :=
  ⟨⟨P, by simpa using h.left, by simpa using h.right, h.datagram, h.blk, rfl, h.dconly, h.blkvalid⟩, rfl, rfl,
    fun _ _ => rfl⟩

theorem SameBlock.finishGetblk : SamePlace (finishGetblk s) (finishGetblk u) :=
  ⟨⟨P, by simpa using h.left, by simpa using h.right, h.datagram, h.blk, rfl, h.dconly, rfl⟩, rfl, rfl, nofun⟩

theorem SameBlock.peekBits_eq {n : Nat} (hn : n ≤ 32) : peekBits n u = peekBits n s :=
  (peekBits_eq_of_atPos h.left h.right h.datagram hn).symm

end

/-- The symbol at the same place leaves the same place. -/
theorem SamePlace.symbolAt {T : Config.Tables} (hT : EntriesInRange T) {s u : State} (h : SamePlace s u) :
    SamePlace (symbolAt T s) (symbolAt T u) := by
  have hsame := h
  obtain ⟨⟨P, hb⟩, hphase, hrun, -⟩ := h
  cases hp : s.phase with
  | idle => rwa [symbolAt_idle T hp, symbolAt_idle T (hphase ▸ hp)]
  | dc =>
    have hw : dcWindow u = dcWindow s := congrArg (BitVec.ofNat 10) (hb.peekBits_eq (by decide))
    rw [symbolAt_dc T hp, symbolAt_dc T (hphase ▸ hp), hw]
    cases hd : s.dconly with
    | false =>
      rw [dcSymbol_of_pairs T _ hd, dcSymbol_of_pairs T _ (hb.dconly ▸ hd)]
      exact ((hb.skip (by decide)).writeBlk _ _).awaitRun _
    | true =>
      rw [dcSymbol_of_dcOnly T _ hd, dcSymbol_of_dcOnly T _ (hb.dconly ▸ hd)]
      exact ((hb.skip (by decide)).writeBlk _ _).finishGetblk
  | run =>
    have hw : runWindow u = runWindow s := congrArg (BitVec.ofNat 12) (hb.peekBits_eq (by decide))
    rw [symbolAt_run T hp, symbolAt_run T (hphase ▸ hp), hw]
    have hfill := hb.fill (n := 12) (by decide)
    cases hv : (T.runTab (runWindow s)).valid with
    | false =>
      rw [runSymbol_of_invalid hv, runSymbol_of_invalid hv]
      exact hfill.failGetblk _
    | true =>
      rw [runSymbol_of_valid hv, runSymbol_of_valid hv]
      exact (hfill.skip ((hT.run_nbits _ hv).trans (by decide))).awaitLevel _
  | level =>
    have hw : levWindow u = levWindow s := congrArg (BitVec.ofNat 15) (hb.peekBits_eq (by decide))
    rw [symbolAt_level T hp, symbolAt_level T (hphase ▸ hp), hw]
    have hfill := hb.fill (n := 15) (by decide)
    cases hv : (T.levTab (levWindow s)).valid with
    | false =>
      rw [levSymbol_of_invalid T hv, levSymbol_of_invalid T hv]
      exact hfill.failGetblk _
    | true =>
      have hskip := hfill.skip ((hT.lev_nbits _ hv).trans (by decide))
      have hindex : u.zz + u.run = s.zz + s.run := by rw [hb.zz, hrun]
      cases he : (T.levTab (levWindow s)).eob with
      | true =>
        rw [levSymbol_of_eob T hv he, levSymbol_of_eob T hv he]
        exact hskip.finishGetblk
      | false =>
        by_cases hz : s.zz + s.run < 64
        · rw [levSymbol_of_place T hv he hz, levSymbol_of_place T hv he (hindex ▸ hz)]
          simp only [hindex]
          exact (hskip.writeBlk _ _).awaitRun _
        · rw [levSymbol_of_overrun T hv he (Nat.le_of_not_lt hz),
            levSymbol_of_overrun T hv he (hindex ▸ Nat.le_of_not_lt hz)]
          exact hskip.failGetblk _

/-- GETBLK over cursors at one position of one datagram ends in the same place, whatever else differs. -/
theorem samePlace_getblk {T : Config.Tables} (hT : EntriesInRange T) {s u : State} {P : Nat} (hs : AtPos s P)
    (hu : AtPos u P) (hd : SameDatagram s u) (hc : Bool) : SamePlace (getblk T hc s) (getblk T hc u) :=
  getblk_rel (R := SamePlace) (fun _ _ => SamePlace.symbolAt hT)
    ⟨⟨P, by simpa using hs, by simpa using hu, hd, rfl, rfl, rfl, rfl⟩, rfl, rfl, nofun⟩

/-- READ with a legal count (R118). -/
theorem exec_read {n : BitVec 6} (hn : n.toNat ≤ 32) (s : State) :
    exec (.read n) s = .next (setResult (peekBits n.toNat s) (skip n.toNat s)) := by
  simp [exec, execRead, countLegal, hn]

/-- PEEK with a legal count (R119). -/
theorem exec_peek {n : BitVec 6} (hn : n.toNat ≤ 32) (s : State) :
    exec (.peek n) s = .next (setResult (peekBits n.toNat s) (fill n.toNat s)) := by
  simp [exec, execPeek, countLegal, hn]

/-- Settles O36: what a command looks at is the stream from P on, and ALIGN skips the bits up to a boundary, the same
from P however many are fetched. -/
theorem outputsDependOnlyOnTheStream : Obligations.OutputsDependOnlyOnTheStream := by
  intro s u P hs hu hd
  have hblock : ∀ T, EntriesInRange T → ∀ hc, ∃ Q, (getblk T hc s).blk = (getblk T hc u).blk ∧
      (getblk T hc s).blkvalid = (getblk T hc u).blkvalid ∧ (getblk T hc s).dconly = (getblk T hc u).dconly ∧
      ((getblk T hc s).blkvalid = false → (getblk T hc s).cause = (getblk T hc u).cause) ∧
      AtPos (getblk T hc s) Q ∧ AtPos (getblk T hc u) Q := fun T hT hc => by
    obtain ⟨⟨Q, hb⟩, -, -, hcause⟩ := samePlace_getblk hT hs hu hd hc
    exact ⟨Q, hb.blk, hb.blkvalid, hb.dconly, hcause (getblk_phase T hc s), hb.left, hb.right⟩
  refine ⟨fun n hn => ⟨_, _, exec_read hn s, exec_read hn u, ?_, ?_, ?_⟩,
    fun n hn => ⟨_, _, exec_peek hn s, exec_peek hn u, ?_, ?_, ?_⟩, ⟨_, _, P + s.cnt.toNat % 8, rfl, rfl, ?_, ?_⟩,
    fun hc => ?_, fun T hT hc => ?_⟩
  · simp [peekBits_eq_of_atPos hs hu hd hn]
  · simpa using hs.skip hn
  · simpa using hu.skip hn
  · simp [peekBits_eq_of_atPos hs hu hd hn]
  · simpa using hs.fill hn
  · simpa using hu.fill hn
  · exact hs.skip (by omega)
  · have hmod : s.cnt.toNat % 8 = u.cnt.toNat % 8 := by
      have := hs.add_cnt_mod
      have := hu.add_cnt_mod
      omega
    rw [hmod]
    exact hu.skip (by omega)
  · obtain ⟨Q, hQ⟩ := hblock tables entriesInRange_tables hc
    exact ⟨_, _, Q, rfl, rfl, hQ⟩
  · obtain ⟨Q, hQ⟩ := hblock T (entriesInRange_of_tablesWf hT) hc
    exact ⟨_, _, Q, rfl, rfl, hQ⟩

end Sys2Proof.Machine
end

section
/-! PROOFS. GETBLK over the entries a configuration reads in the stream (R170 to R177): pair after pair, then one of the
four endings. -/

namespace Sys2Proof.Machine

/-- The GETBLK 1 that began in s reads the pair at position P next, for zig-zag index i, BLK being b. -/
structure AtPair (s t : State) (P i : Nat) (b : Vector Word 64) : Prop where
  phase : t.phase = .run
  pos : AtPos t P
  frame : BlockFrame s true t
  zz : t.zz = i
  blk : t.blk = b

/-- The GETBLK 1 that began in s reads the level code at position P next, of a pair of run r. -/
structure AtLevel (s t : State) (P i r : Nat) (b : Vector Word 64) : Prop where
  phase : t.phase = .level
  pos : AtPos t P
  frame : BlockFrame s true t
  zz : t.zz = i
  run : t.run = r
  blk : t.blk = b

/-- The bits a GETBLK peeks are those of the stream it began in. -/
theorem BlockFrame.peekBits_eq {s t : State} {hc : Bool} (h : BlockFrame s hc t) {P n : Nat} (hpos : AtPos t P)
    (hn : n ≤ 32) : peekBits n t = streamVal s P n := by
  obtain ⟨hd, hl, -⟩ := h
  rw [hpos.peekBits_eq hn, streamVal_congr hd hl]

/-- The entry at a pair is the configuration's at its position (R173). -/
theorem AtPair.entry_eq {s t : State} {P i : Nat} {b : Vector Word 64} (h : AtPair s t P i b) (T : Config.Tables) :
    T.runTab (runWindow t) = runAt T s P := by
  rw [runWindow, h.frame.peekBits_eq h.pos (by decide), runAt]

/-- The entry at a level code is the configuration's at its position (R173). -/
theorem AtLevel.entry_eq {s t : State} {P i r : Nat} {b : Vector Word 64} (h : AtLevel s t P i r b)
    (T : Config.Tables) : T.levTab (levWindow t) = levAt T s P := by
  rw [levWindow, h.frame.peekBits_eq h.pos (by decide), levAt]

section
variable {T : Config.Tables} {s t : State} {P i r : Nat} {b : Vector Word 64}

/-- A valid run entry is consumed, and its level code is next (R173). -/
theorem AtPair.symbolAt_valid (hT : EntriesInRange T) (h : AtPair s t P i b) (hv : (runAt T s P).valid = true) :
    AtLevel s (symbolAt T t) (P + (runAt T s P).nbits) i (runAt T s P).run b := by
  have hpos : AtPos (skip (runAt T s P).nbits (fill 12 t)) (P + (runAt T s P).nbits) := h.pos.skip_run hT hv
  rw [symbolAt_run T h.phase, h.entry_eq, runSymbol_of_valid hv]
  exact ⟨rfl, by simpa using hpos, by simpa [BlockFrame] using h.frame, by simp [h.zz], rfl, by simp [h.blk]⟩

/-- An invalid run entry ends the block with BAD_RUN, nothing of it consumed (R177, R192). -/
theorem AtPair.symbolAt_invalid (h : AtPair s t P i b) (hv : (runAt T s P).valid = false) :
    symbolAt T t = afterGetblk s (symbolAt T t) true b false true 2 ∧ AtPos (symbolAt T t) P := by
  rw [symbolAt_run T h.phase, h.entry_eq, runSymbol_of_invalid hv]
  have hframe : BlockFrame s true (fill 12 t) := by simpa [BlockFrame] using h.frame
  have hblk : (fill 12 t).blk = b := by simp [h.blk]
  exact ⟨hblk ▸ hframe.failGetblk_eq .badRun, by simpa using h.pos.fill (by decide)⟩

/-- An invalid level entry ends the block with BAD_LEVEL, nothing of it consumed (R177, R193). -/
theorem AtLevel.symbolAt_invalid (h : AtLevel s t P i r b) (hv : (levAt T s P).valid = false) :
    symbolAt T t = afterGetblk s (symbolAt T t) true b false true 3 ∧ AtPos (symbolAt T t) P := by
  rw [symbolAt_level T h.phase, h.entry_eq, levSymbol_of_invalid T hv]
  have hframe : BlockFrame s true (fill 15 t) := by simpa [BlockFrame] using h.frame
  have hblk : (fill 15 t).blk = b := by simp [h.blk]
  exact ⟨hblk ▸ hframe.failGetblk_eq .badLevel, by simpa using h.pos.fill (by decide)⟩

/-- A valid level entry's bits consumed: the frame, BLK and the position it leaves. -/
theorem AtLevel.skip_entry (hT : EntriesInRange T) (h : AtLevel s t P i r b) (hv : (levAt T s P).valid = true) :
    BlockFrame s true (skip (levAt T s P).nbits (fill 15 t)) ∧ (skip (levAt T s P).nbits (fill 15 t)).blk = b ∧
      AtPos (skip (levAt T s P).nbits (fill 15 t)) (P + (levAt T s P).nbits) :=
  ⟨by simpa [BlockFrame] using h.frame, by simp [h.blk], h.pos.skip_lev hT hv⟩

/-- A level entry with a place stores its value there, and the next pair follows (R175, R161). -/
theorem AtLevel.symbolAt_place (hT : EntriesInRange T) (h : AtLevel s t P i r b) (hv : (levAt T s P).valid = true)
    (he : (levAt T s P).eob = false) (hz : i + r ≤ 63) :
    AtPair s (symbolAt T t) (P + (levAt T s P).nbits) (i + r + 1) (placePairs T i [(r, (levAt T s P).value)] b) := by
  obtain ⟨hframe, hblk, hpos⟩ := h.skip_entry hT hv
  have hindex : t.zz + t.run = i + r := by rw [h.zz, h.run]
  have hfin : Fin.ofNat 64 (i + r) = ⟨i + r, by omega⟩ := Fin.ext (Nat.mod_eq_of_lt (by omega))
  rw [symbolAt_level T h.phase, h.entry_eq, levSymbol_of_place T hv he (by omega)]
  refine ⟨rfl, by simpa using hpos, hframe, by simp [hindex], ?_⟩
  simp only [placePairs, hfin, awaitRun_blk, writeBlk_blk, hblk, hindex, dequant]

/-- An end-of-block entry ends the block without error (R174). -/
theorem AtLevel.symbolAt_eob (hT : EntriesInRange T) (h : AtLevel s t P i r b) (hv : (levAt T s P).valid = true)
    (he : (levAt T s P).eob = true) :
    symbolAt T t = afterGetblk s (symbolAt T t) true b true s.err s.cause ∧
      AtPos (symbolAt T t) (P + (levAt T s P).nbits) := by
  obtain ⟨hframe, hblk, hpos⟩ := h.skip_entry hT hv
  rw [symbolAt_level T h.phase, h.entry_eq, levSymbol_of_eob T hv he]
  exact ⟨hblk ▸ hframe.finishGetblk_eq, by simpa using hpos⟩

/-- A value with no place ends the block with OVERRUN, its bits consumed and nothing stored (R176, R191). -/
theorem AtLevel.symbolAt_overrun (hT : EntriesInRange T) (h : AtLevel s t P i r b) (hv : (levAt T s P).valid = true)
    (he : (levAt T s P).eob = false) (hz : 63 < i + r) :
    symbolAt T t = afterGetblk s (symbolAt T t) true b false true 1 ∧
      AtPos (symbolAt T t) (P + (levAt T s P).nbits) := by
  obtain ⟨hframe, hblk, hpos⟩ := h.skip_entry hT hv
  rw [symbolAt_level T h.phase, h.entry_eq, levSymbol_of_overrun T hv he (by rwa [h.zz, h.run])]
  exact ⟨hblk ▸ hframe.failGetblk_eq .overrun, by simpa using hpos⟩

end

/-- The pairs the configuration reads, one after the other, as far as they fit: each consumed and placed (R175). -/
theorem AtPair.iterate_entries {T : Config.Tables} (hT : EntriesInRange T) {s : State}
    (ps : List (Config.RunEntry × Config.LevEntry)) {t : State} {P i : Nat} {b : Vector Word 64} (h : AtPair s t P i b)
    (hat : EntriesAt T s P ps) (hfit : RunsFit i (pairsOf ps)) :
    ∃ k, AtPair s ((symbolAt T)^[k] t) (P + entriesLen ps) (pairsEnd i (pairsOf ps))
      (placePairs T i (pairsOf ps) b) := by
  induction ps generalizing t P i b with
  | nil => exact ⟨0, h⟩
  | cons p ps ih =>
    obtain ⟨e, f⟩ := p
    obtain ⟨rfl, hv, rfl, hv2, he, hrest⟩ := hat
    obtain ⟨hz, hfit⟩ := hfit
    have hpair := (h.symbolAt_valid hT hv).symbolAt_place hT hv2 he hz
    rw [Nat.add_assoc] at hpair
    obtain ⟨k, hk⟩ := ih hpair hrest hfit
    rw [Nat.add_assoc] at hk
    exact ⟨k + 2, hk⟩

-- The start of the block

/-- The DC coefficient of the stream's DC field, stored over the zero fill (R171, R172). -/
theorem blk_dcField (T : Config.Tables) (hc : Bool) {s : State} {P : Nat} (h : AtPos s P) :
    (writeBlk 0 (dequant (dcWindow (startGetblk hc s)).toNat (T.quant 0)) (skip 10 (startGetblk hc s))).blk =
      dcBlk T (streamVal s P 10) := by
  have hpeek : peekBits 10 (startGetblk hc s) = streamVal s P 10 := by
    rw [AtPos.peekBits_eq (P := P) (by simpa using h) (by decide)]
    exact streamVal_congr rfl rfl P 10
  have hwindow : (dcWindow (startGetblk hc s)).toNat = streamVal s P 10 := by
    rw [dcWindow, hpeek, BitVec.toNat_ofNat, Nat.mod_eq_of_lt (streamVal_lt s P 10)]
  rw [hwindow, dequant, ← Nat.cast_mul, BitVec.ofInt_natCast]
  simp [dcBlk, zeroBlk]

/-- After the DC field of a GETBLK 1 the first pair is next, for zig-zag index 1 (R172, R173). -/
theorem atPair_first (T : Config.Tables) {s : State} {P : Nat} (h : AtPos s P) :
    AtPair s (symbolAt T (startGetblk true s)) (P + 10) 1 (dcBlk T (streamVal s P 10)) := by
  rw [symbolAt_dc T rfl, dcSymbol_of_pairs T _ rfl]
  refine ⟨rfl, ?_, by simp [BlockFrame], rfl, blk_dcField T true h⟩
  simpa using AtPos.skip (n := 10) ((atPos_startGetblk true s P).mpr h) (by decide)

/-- GETBLK 0 is the DC field alone (R172). -/
theorem getblk_false_eq {T : Config.Tables} {s : State} {P : Nat} (h : AtPos s P) :
    getblk T false s = afterGetblk s (getblk T false s) false (dcBlk T (streamVal s P 10)) true s.err s.cause ∧
      AtPos (getblk T false s) (P + 10) := by
  have hget : getblk T false s = symbolAt T (startGetblk false s) := by
    refine getblk_eq_of_iterate (k := 1) rfl ?_
    rw [symbolAt_dc T rfl, dcSymbol_of_dcOnly T _ rfl]
    rfl
  rw [hget, symbolAt_dc T rfl, dcSymbol_of_dcOnly T _ rfl, ← blk_dcField T false h]
  refine ⟨BlockFrame.finishGetblk_eq (by simp [BlockFrame]), ?_⟩
  simpa using AtPos.skip (n := 10) ((atPos_startGetblk false s P).mpr h) (by decide)

/-- Settles O58: the pairs that fit are consumed and placed one by one, and the entries after them end the block. -/
theorem getblkDecodesInAnyConfiguration : Obligations.GetblkDecodesInAnyConfiguration := by
  intro T hwf s P h
  have hT := entriesInRange_of_tablesWf hwf
  refine ⟨⟨_, rfl, getblk_false_eq h⟩, fun ps hat hfit => ?_⟩
  obtain ⟨k, hpair⟩ := (atPair_first T h).iterate_entries hT ps hat hfit
  have hget : ∀ m t, (symbolAt T)^[m] ((symbolAt T)^[k] (symbolAt T (startGetblk true s))) = t → t.phase = .idle →
      getblk T true s = t := fun m t hm ht =>
    getblk_eq_of_iterate (k := m + k + 1) (by rw [← hm, ← Function.iterate_add_apply]; rfl) ht
  generalize (symbolAt T)^[k] (symbolAt T (startGetblk true s)) = t at hpair hget
  refine ⟨_, rfl, fun hv => ?_, fun hv hv2 => ?_, fun hv hv2 he => ?_, fun hv hv2 he hz => ?_⟩
  · have hend := hpair.symbolAt_invalid hv
    rw [hget 1 (symbolAt T t) rfl (congrArg State.phase hend.1)]
    exact hend
  · have hend := (hpair.symbolAt_valid hT hv).symbolAt_invalid hv2
    rw [hget 2 (symbolAt T (symbolAt T t)) rfl (congrArg State.phase hend.1)]
    exact hend
  · have hend := (hpair.symbolAt_valid hT hv).symbolAt_eob hT hv2 he
    rw [hget 2 (symbolAt T (symbolAt T t)) rfl (congrArg State.phase hend.1)]
    exact hend
  · have hend := (hpair.symbolAt_valid hT hv).symbolAt_overrun hT hv2 he hz
    rw [hget 2 (symbolAt T (symbolAt T t)) rfl (congrArg State.phase hend.1)]
    exact hend

end Sys2Proof.Machine
end

section
/-! PROOFS. What an instruction does, said once for all of them: a cursor command is one update of the state, and GETBLK
and its symbols are sequences of the operations of a block (R116 to R121, R160, R170 to R177). -/

namespace Sys2Proof.Machine

-- The kinds of instructions

/-- A property of instructions holds of all where it holds of the six commands, of DC, and of what stands for an entry of
one of the two code tables (R84 to R87). -/
theorem instr_ind {motive : Instr → Prop} (nop : motive .nop) (bind : ∀ L, motive (.bind L))
    (read : ∀ n, motive (.read n)) (peek : ∀ n, motive (.peek n)) (align : motive .align)
    (getblk : ∀ hc, motive (.getblk hc)) (dc : ∀ d, motive (.dc d))
    (run : ∀ i e, runEntryOf i = some e → motive i) (lev : ∀ i f, levEntryOf i = some f → motive i) (i : Instr) :
    motive i := by
  cases i
  case nop => exact nop
  case bind L => exact bind L
  case read n => exact read n
  case peek n => exact peek n
  case align => exact align
  case getblk hc => exact getblk hc
  case dc d => exact dc d
  case run0 | run1 | run2to3 | run4to7 | run8to15 | run16to31 | run32to63 | runInvalid => exact run _ _ rfl
  case lev1 | eob | lev2to3 | lev4to7 | lev8to15 | lev16to31 | lev32to63 | lev64to127 | levInvalid =>
    exact lev _ _ rfl

-- The operations of a block

/-- The state t comes from s by operations GETBLK and its symbols are made of, each looking at or consuming at most 32
bits. -/
inductive BlockOps (s : State) : State → Prop
  | refl : BlockOps s s
  | start {t : State} (hc : Bool) (h : BlockOps s t) : BlockOps s (startGetblk hc t)
  | fill {t : State} {n : Nat} (hn : n ≤ 32) (h : BlockOps s t) : BlockOps s (fill n t)
  | skip {t : State} {n : Nat} (hn : n ≤ 32) (h : BlockOps s t) : BlockOps s (skip n t)
  | writeBlk {t : State} (p : Fin 64) (v : Word) (h : BlockOps s t) : BlockOps s (writeBlk p v t)
  | awaitRun {t : State} (i : Nat) (h : BlockOps s t) : BlockOps s (awaitRun i t)
  | awaitLevel {t : State} (r : Nat) (h : BlockOps s t) : BlockOps s (awaitLevel r t)
  | fail {t : State} (c : Cause) (h : BlockOps s t) : BlockOps s (failGetblk c t)
  | finish {t : State} (h : BlockOps s t) : BlockOps s (finishGetblk t)

/-- The DC field is a sequence of these operations (R160, R172). -/
theorem BlockOps.dcSymbol {s t : State} (h : BlockOps s t) (T : Config.Tables) (d : BitVec 10) :
    BlockOps s (dcSymbol T d t) := by
  have hstore := (h.skip (n := 10) (by decide)).writeBlk 0 (dequant d.toNat (T.quant 0))
  rcases dcSymbol_cases T d t with ⟨-, e⟩ | ⟨-, e⟩
  · exact e ▸ hstore.awaitRun 1
  · exact e ▸ hstore.finish

/-- A run code is a sequence of these operations, where its bits are in its window (R173, R177). -/
theorem BlockOps.runSymbol {s t : State} (h : BlockOps s t) {e : Config.RunEntry} (he : e.valid = true → e.nbits ≤ 12) :
    BlockOps s (runSymbol e t) := by
  have hfill := h.fill (n := 12) (by decide)
  rcases runSymbol_cases e t with ⟨hv, eq⟩ | ⟨-, eq⟩
  · exact eq ▸ (hfill.skip ((he hv).trans (by decide))).awaitLevel e.run
  · exact eq ▸ hfill.fail .badRun

/-- A level code is a sequence of these operations, where its bits are in its window (R174 to R177). -/
theorem BlockOps.levSymbol {s t : State} (h : BlockOps s t) (T : Config.Tables) {f : Config.LevEntry}
    (hf : f.valid = true → f.nbits ≤ 15) : BlockOps s (levSymbol T f t) := by
  have hfill := h.fill (n := 15) (by decide)
  have hskip : f.valid = true → BlockOps s (Machine.skip f.nbits (Machine.fill 15 t)) := fun hv =>
    hfill.skip ((hf hv).trans (by decide))
  rcases levSymbol_cases T f t with ⟨-, e⟩ | ⟨hv, -, e⟩ | ⟨hv, -, e⟩
  · exact e ▸ hfill.fail .badLevel
  · exact e ▸ (hskip hv).finish
  · rw [e]
    rcases storeLevel_cases T f.value (Machine.skip f.nbits (Machine.fill 15 t)) with ⟨hz, e⟩ | ⟨-, e⟩ <;> rw [e]
    · exact ((hskip hv).writeBlk _ _).awaitRun _
    · exact (hskip hv).fail .overrun

/-- The symbol at the cursor is a sequence of these operations, where the tables keep to their ranges. -/
theorem BlockOps.symbolAt {T : Config.Tables} (hT : EntriesInRange T) {s t : State} (h : BlockOps s t) :
    BlockOps s (symbolAt T t) := by
  cases hp : t.phase with
  | idle => rwa [symbolAt_idle T hp]
  | dc => exact symbolAt_dc T hp ▸ h.dcSymbol T _
  | run => exact symbolAt_run T hp ▸ h.runSymbol (hT.run_nbits _)
  | level => exact symbolAt_level T hp ▸ h.levSymbol T (hT.lev_nbits _)

/-- GETBLK is a sequence of these operations, where the tables keep to their ranges (R170). -/
theorem blockOps_getblk {T : Config.Tables} (hT : EntriesInRange T) (hc : Bool) (s : State) :
    BlockOps s (getblk T hc s) :=
  getblk_inv (I := BlockOps s) (fun _ => BlockOps.symbolAt hT) (BlockOps.refl.start hc)

-- What an instruction does

/-- The instructions that decode a block: GETBLK and its symbols. -/
def ofBlock : Instr → Bool
  | .nop | .bind _ | .read _ | .peek _ | .align => false
  | _ => true

/-- What an instruction makes of a state: the five cursor commands' updates, ILLEGAL_CMD for a count above 32 (R118,
R119), or a sequence of the operations of a block. -/
inductive ExecEffect (s : State) : Instr → State → Prop
  | nop : ExecEffect s .nop s
  | bind (L : BitVec 16) : ExecEffect s (.bind L) (clearError (rewind { s with len := L }))
  | read {n : BitVec 6} (hn : n.toNat ≤ 32) :
    ExecEffect s (.read n) (setResult (peekBits n.toNat s) (skip n.toNat s))
  | peek {n : BitVec 6} (hn : n.toNat ≤ 32) :
    ExecEffect s (.peek n) (setResult (peekBits n.toNat s) (fill n.toNat s))
  | readIllegal {n : BitVec 6} (hn : 32 < n.toNat) : ExecEffect s (.read n) (takeError .illegalCmd s)
  | peekIllegal {n : BitVec 6} (hn : 32 < n.toNat) : ExecEffect s (.peek n) (takeError .illegalCmd s)
  | align : ExecEffect s .align (skip (s.cnt.toNat % 8) s)
  | block {i : Instr} {t : State} (hi : ofBlock i = true) (h : BlockOps s t) : ExecEffect s i t

/-- READ with a count above 32 (R118). -/
theorem exec_read_illegal {n : BitVec 6} (hn : 32 < n.toNat) (s : State) :
    exec (.read n) s = .next (takeError .illegalCmd s) := by
  simp [exec, execRead, countLegal, Nat.not_le.mpr hn]

/-- PEEK with a count above 32 (R119). -/
theorem exec_peek_illegal {n : BitVec 6} (hn : 32 < n.toNat) (s : State) :
    exec (.peek n) s = .next (takeError .illegalCmd s) := by
  simp [exec, execPeek, countLegal, Nat.not_le.mpr hn]

/-- A class of run codes decodes a block. -/
theorem ofBlock_of_runEntryOf {i : Instr} {e : Config.RunEntry} (h : runEntryOf i = some e) : ofBlock i = true := by
  cases i <;> cases h <;> rfl

/-- A class of level codes decodes a block. -/
theorem ofBlock_of_levEntryOf {i : Instr} {f : Config.LevEntry} (h : levEntryOf i = some f) : ofBlock i = true := by
  cases i <;> cases h <;> rfl

/-- Every instruction completes, with one of these effects. -/
theorem exec_effect (i : Instr) (s : State) : ∃ t, exec i s = .next t ∧ ExecEffect s i t := by
  induction i using instr_ind with
  | nop => exact ⟨_, rfl, .nop⟩
  | bind L => exact ⟨_, rfl, .bind L⟩
  | read n =>
    rcases Nat.lt_or_ge 32 n.toNat with hn | hn
    · exact ⟨_, exec_read_illegal hn s, .readIllegal hn⟩
    · exact ⟨_, exec_read hn s, .read hn⟩
  | peek n =>
    rcases Nat.lt_or_ge 32 n.toNat with hn | hn
    · exact ⟨_, exec_peek_illegal hn s, .peekIllegal hn⟩
    · exact ⟨_, exec_peek hn s, .peek hn⟩
  | align => exact ⟨_, rfl, .align⟩
  | getblk hc => exact ⟨_, rfl, .block rfl (blockOps_getblk entriesInRange_tables hc s)⟩
  | dc d => exact ⟨_, rfl, .block rfl (BlockOps.refl.dcSymbol tables d)⟩
  | run i e h =>
    exact ⟨_, exec_of_runEntryOf h s,
      .block (ofBlock_of_runEntryOf h) (BlockOps.refl.runSymbol fun hv => (runEntryOf_range h hv).2.1)⟩
  | lev i f h =>
    exact ⟨_, exec_of_levEntryOf h s,
      .block (ofBlock_of_levEntryOf h) (BlockOps.refl.levSymbol tables fun hv => (levEntryOf_range h hv).2)⟩

/-- The next state an instruction answers is one of these effects. -/
theorem effect_of_exec {i : Instr} {s t : State} (h : exec i s = .next t) : ExecEffect s i t := by
  obtain ⟨u, hu, heff⟩ := exec_effect i s
  rw [hu] at h
  cases h
  exact heff

end Sys2Proof.Machine
end

section
/-! PROOFS. Who writes what: RESULT, len, ERR and the position (R21, R28, R30, R32, R36, R200). -/

namespace Sys2Proof.Machine

/-- The operations of a block write neither RESULT nor len, and nothing of the host's. -/
theorem BlockOps.frame {s t : State} (h : BlockOps s t) :
    t.inbox = s.inbox ∧ t.rdata = s.rdata ∧ t.result = s.result ∧ t.len = s.len := by
  induction h with
  | refl => exact ⟨rfl, rfl, rfl, rfl⟩
  | _ => simpa [failGetblk, finishGetblk]

/-- Settles O54, update by update of what an instruction can do. -/
theorem eachRegisterHasItsWriters : Obligations.EachRegisterHasItsWriters := by
  intro i s t h
  cases effect_of_exec h with
  | bind L => exact ⟨rfl, rfl, by simp, fun _ => ⟨L, rfl⟩, by simp⟩
  | block hi hops =>
    obtain ⟨hinbox, hrdata, hresult, hlen⟩ := hops.frame
    refine ⟨hinbox, hrdata, fun hne => absurd hresult hne, fun hne => absurd hlen hne, ?_⟩
    rintro (rfl | rfl | ⟨L, rfl⟩ | ⟨n, rfl | rfl⟩) <;> cases hi
  | _ => simp

/-- The operations of a block leave a set ERR set. -/
theorem BlockOps.err_eq_true {s t : State} (h : BlockOps s t) (hs : s.err = true) : t.err = true := by
  induction h with
  | refl => exact hs
  | fail c => rfl
  | _ => simpa [finishGetblk]

/-- No instruction but BIND clears ERR (R32, R200). -/
theorem err_cleared_by_bind {i : Instr} {s t : State} (h : exec i s = .next t) (hs : s.err = true)
    (ht : t.err = false) : ∃ L, i = .bind L := by
  cases effect_of_exec h with
  | bind L => exact ⟨L, rfl⟩
  | block hi hops => simp [hops.err_eq_true hs] at ht
  | _ => simp [hs] at ht

/-- A command word that clears ERR decodes to a BIND. -/
theorem decodeCmd_of_err_cleared {cw : Word} {s t : State} (h : runPlaced (.cmd cw) s = .next t) (hs : s.err = true)
    (ht : t.err = false) : ∃ L, decodeCmd cw = .ok (.bind L) := by
  cases hd : decodeCmd cw with
  | error r =>
    rw [← runPlacedOver_tables, runPlacedOver_cmd_error tables hd] at h
    cases h
    cases ht
  | ok i =>
    rw [runPlaced_ok (p := .cmd cw) hd] at h
    obtain ⟨L, rfl⟩ := err_cleared_by_bind h hs ht
    exact ⟨L, rfl⟩

/-- A host action that clears ERR is a Reset or a command word that decodes to a BIND. -/
theorem hostAction_of_err_cleared {a : HostAction} {s t : State} (h : hostAction a s = .next t) (hs : s.err = true)
    (ht : t.err = false) : a = .reset ∨ ∃ cw L, decodeCmd cw = .ok (.bind L) ∧ (a = .cmd cw ∨ a = .writeReg 0 cw) := by
  rcases hostActionBy_cases runPlaced a s with ⟨ha, -⟩ | ⟨x, b, e⟩ | ⟨v, e⟩ | e | ⟨cw, ha, e⟩ | e
  · exact .inl ha
  · cases e.symm.trans h; simp [hs] at ht
  · cases e.symm.trans h; simp [hs] at ht
  · cases e.symm.trans h; simp [hs] at ht
  · obtain ⟨L, hL⟩ := decodeCmd_of_err_cleared (e.symm.trans h) hs ht
    exact .inr ⟨cw, L, hL, ha⟩
  · cases e.symm.trans h

/-- Settles O52: in none of the situations a step can find does anything else clear ERR. -/
theorem errIsClearedOnlyByBindAndReset : Obligations.ErrIsClearedOnlyByBindAndReset := by
  refine ⟨fun i s t => err_cleared_by_bind, fun s t h hs ht => ?_⟩
  rw [step, fetchAndRun] at h
  rcases step_situations s with ⟨hp, hi⟩ | ⟨hp, a, rest, hi⟩ | ⟨p, rest, -, hi⟩ | ⟨p, hf, hi⟩
  · rw [fetchAndRunBy_idle_nil _ hp hi] at h
    cases h
    simp [hs] at ht
  · rw [fetchAndRunBy_idle_cons _ hp hi] at h
    refine ⟨rest, ?_⟩
    rcases hostAction_of_err_cleared (s := { s with inbox := rest }) h hs ht with rfl | ⟨cw, L, hL, rfl | rfl⟩
    · exact .inl hi
    · exact .inr ⟨cw, L, hL, .inl hi⟩
    · exact .inr ⟨cw, L, hL, .inr hi⟩
  · exact ⟨rest, .inl hi⟩
  · rw [fetchAndRunBy_symbol _ hf hi, ← runPlacedOver_tables, runPlacedOver_of_fetchSymbol tables hf] at h
    cases h
    simp [(BlockOps.refl.symbolAt entriesInRange_tables).err_eq_true hs] at ht

/-- The operations of a block never move the position back. -/
theorem BlockOps.atPos {s t : State} {P : Nat} (h : BlockOps s t) (hs : AtPos s P) : ∃ Q, P ≤ Q ∧ AtPos t Q := by
  induction h with
  | refl => exact ⟨P, le_rfl, hs⟩
  | fill hn _ ih =>
    obtain ⟨Q, hle, hQ⟩ := ih
    exact ⟨Q, hle, hQ.fill hn⟩
  | skip hn _ ih =>
    obtain ⟨Q, hle, hQ⟩ := ih
    exact ⟨_, hle.trans (Nat.le_add_right _ _), hQ.skip hn⟩
  | _ => simpa

/-- Settles O55: of the effects of an instruction only BIND's rewind moves the position back. -/
theorem positionNeverMovesBack : Obligations.PositionNeverMovesBack := by
  intro i s t P hs h hbind
  cases effect_of_exec h with
  | nop => exact ⟨P, le_rfl, hs⟩
  | bind L => exact absurd rfl (hbind L)
  | read hn => exact ⟨_, Nat.le_add_right _ _, by simpa using hs.skip hn⟩
  | peek hn => exact ⟨P, le_rfl, by simpa using hs.fill hn⟩
  | readIllegal | peekIllegal => exact ⟨P, le_rfl, AtPos_congr hs rfl rfl rfl rfl rfl⟩
  | align => exact ⟨_, Nat.le_add_right _ _, hs.skip (by omega)⟩
  | block hi hops => exact hops.atPos hs

end Sys2Proof.Machine
end

section
/-! PROOFS. What ERR and CAUSE hold does not influence an instruction (R32, R33, R201). -/

namespace Sys2Proof.Machine

/-- The same machine with ERR and CAUSE holding e and c. -/
def withError (e : Bool) (c : BitVec 4) (s : State) : State := { s with err := e, cause := c }

section
variable (e : Bool) (c : BitVec 4) (s : State)

@[simp] theorem withError_phase : (withError e c s).phase = s.phase := rfl
@[simp] theorem withError_dconly : (withError e c s).dconly = s.dconly := rfl
@[simp] theorem withError_cnt : (withError e c s).cnt = s.cnt := rfl
@[simp] theorem withError_zz : (withError e c s).zz = s.zz := rfl
@[simp] theorem withError_run : (withError e c s).run = s.run := rfl

@[simp] theorem fill_withError (n : Nat) : fill n (withError e c s) = withError e c (fill n s) := by
  unfold fill
  rw [withError_cnt]
  split_ifs <;> rfl
@[simp] theorem skip_withError (n : Nat) : skip n (withError e c s) = withError e c (skip n s) := by
  rw [skip, fill_withError]
  rfl
@[simp] theorem peekBits_withError (n : Nat) : peekBits n (withError e c s) = peekBits n s := by
  rw [peekBits, fill_withError]
  rfl
@[simp] theorem setResult_withError (v : Nat) : setResult v (withError e c s) = withError e c (setResult v s) := rfl
@[simp] theorem startGetblk_withError (hc : Bool) :
    startGetblk hc (withError e c s) = withError e c (startGetblk hc s) := rfl
@[simp] theorem writeBlk_withError (p : Fin 64) (v : Word) :
    writeBlk p v (withError e c s) = withError e c (writeBlk p v s) := rfl
@[simp] theorem awaitRun_withError (i : Nat) : awaitRun i (withError e c s) = withError e c (awaitRun i s) := rfl
@[simp] theorem awaitLevel_withError (r : Nat) : awaitLevel r (withError e c s) = withError e c (awaitLevel r s) := rfl
@[simp] theorem finishGetblk_err : (finishGetblk s).err = s.err := rfl
@[simp] theorem finishGetblk_cause : (finishGetblk s).cause = s.cause := rfl
@[simp] theorem finishGetblk_withError : finishGetblk (withError e c s) = withError e c (finishGetblk s) := rfl
@[simp] theorem failGetblk_withError (k : Cause) : failGetblk k (withError e c s) = failGetblk k s := rfl
@[simp] theorem takeError_withError (k : Cause) : takeError k (withError e c s) = takeError k s := rfl

end

/-- The operation f does not look at ERR and CAUSE in s: from other values of them it leaves the same state, in which
they are as they were, or as f sets them. -/
def ErrorBlind (f : State → State) (s : State) : Prop :=
  ((f s).err = s.err ∧ (f s).cause = s.cause ∧ ∀ e c, f (withError e c s) = withError e c (f s)) ∨
    ∀ e c, f (withError e c s) = f s

/-- Of two operations that do not look at them, one after the other does not. -/
theorem ErrorBlind.comp {f g : State → State} {s : State} (hg : ErrorBlind g (f s)) (hf : ErrorBlind f s) :
    ErrorBlind (g ∘ f) s := by
  rcases hf with ⟨hferr, hfcause, hf⟩ | hf
  · rcases hg with ⟨hgerr, hgcause, hg⟩ | hg
    · exact .inl ⟨hgerr.trans hferr, hgcause.trans hfcause, fun e c => by simp [hf, hg]⟩
    · exact .inr fun e c => by simp [hf, hg]
  · exact .inr fun e c => by simp [hf]

/-- An operation that does not look at them does not when repeated. -/
theorem ErrorBlind.iterate {f : State → State} (hf : ∀ s, ErrorBlind f s) (k : Nat) (s : State) :
    ErrorBlind f^[k] s := by
  induction k generalizing s with
  | zero => exact .inl ⟨rfl, rfl, fun _ _ => rfl⟩
  | succ k ih => exact (ih (f s)).comp (hf s)

-- GETBLK and its symbols: an error ends the block the same, everything else carries ERR and CAUSE along

theorem errorBlind_dcSymbol (T : Config.Tables) (d : BitVec 10) (s : State) : ErrorBlind (dcSymbol T d) s := by
  left
  cases hd : s.dconly with
  | false => simp [dcSymbol_of_pairs, hd]
  | true => simp [dcSymbol_of_dcOnly, hd]

theorem errorBlind_runSymbol (r : Config.RunEntry) (s : State) : ErrorBlind (runSymbol r) s := by
  cases hv : r.valid with
  | false => exact .inr fun e c => by simp [runSymbol_of_invalid hv]
  | true => exact .inl (by simp [runSymbol_of_valid hv])

theorem errorBlind_levSymbol (T : Config.Tables) (f : Config.LevEntry) (s : State) : ErrorBlind (levSymbol T f) s := by
  cases hv : f.valid with
  | false => exact .inr fun e c => by simp [levSymbol_of_invalid T hv]
  | true =>
    cases he : f.eob with
    | true => exact .inl (by simp [levSymbol_of_eob T hv he])
    | false =>
      by_cases hz : s.zz + s.run < 64
      · refine .inl ⟨by simp [levSymbol_of_place T hv he hz], by simp [levSymbol_of_place T hv he hz], fun e c => ?_⟩
        rw [levSymbol_of_place T hv he hz, levSymbol_of_place T hv he (s := withError e c s) hz]
        simp
      · refine .inr fun e c => ?_
        have hover := Nat.le_of_not_lt hz
        rw [levSymbol_of_overrun T hv he hover, levSymbol_of_overrun T hv he (s := withError e c s) hover]
        simp

theorem errorBlind_symbolAt (T : Config.Tables) (s : State) : ErrorBlind (symbolAt T) s := by
  cases hp : s.phase with
  | idle => exact .inl (by simp [symbolAt_idle T, hp])
  | dc => simpa [ErrorBlind, symbolAt_dc T, dcWindow, hp] using errorBlind_dcSymbol T (dcWindow s) s
  | run => simpa [ErrorBlind, symbolAt_run T, runWindow, hp] using errorBlind_runSymbol (T.runTab (runWindow s)) s
  | level => simpa [ErrorBlind, symbolAt_level T, levWindow, hp] using errorBlind_levSymbol T (T.levTab (levWindow s)) s

theorem errorBlind_getblk (T : Config.Tables) (hc : Bool) (s : State) : ErrorBlind (getblk T hc) s := by
  have hstart : ErrorBlind (startGetblk hc) s := .inl (by simp)
  have hcomp : getblk T hc = (symbolAt T)^[129] ∘ startGetblk hc := by
    funext u
    rw [getblk_eq_iterate, Function.comp_apply]
  exact hcomp ▸ (ErrorBlind.iterate (errorBlind_symbolAt T) 129 _).comp hstart

/-- Every instruction is one operation of the state, and does not look at ERR and CAUSE. -/
theorem exec_errorBlind (i : Instr) (s : State) : ∃ f, (∀ s, exec i s = .next (f s)) ∧ ErrorBlind f s := by
  induction i using instr_ind with
  | nop => exact ⟨id, fun _ => rfl, .inl ⟨rfl, rfl, fun _ _ => rfl⟩⟩
  | bind L => exact ⟨_, fun _ => rfl, .inr fun _ _ => rfl⟩
  | read n =>
    rcases Nat.lt_or_ge 32 n.toNat with hn | hn
    · exact ⟨_, exec_read_illegal hn, .inr fun _ _ => rfl⟩
    · exact ⟨_, exec_read hn, .inl (by simp)⟩
  | peek n =>
    rcases Nat.lt_or_ge 32 n.toNat with hn | hn
    · exact ⟨_, exec_peek_illegal hn, .inr fun _ _ => rfl⟩
    · exact ⟨_, exec_peek hn, .inl (by simp)⟩
  | align => exact ⟨_, fun _ => rfl, .inl (by simp)⟩
  | getblk hc => exact ⟨_, fun _ => rfl, errorBlind_getblk tables hc s⟩
  | dc d => exact ⟨_, fun _ => rfl, errorBlind_dcSymbol tables d s⟩
  | run i r h => exact ⟨_, exec_of_runEntryOf h, errorBlind_runSymbol r s⟩
  | lev i f h => exact ⟨_, exec_of_levEntryOf h, errorBlind_levSymbol tables f s⟩

/-- Settles O53: each instruction carries ERR and CAUSE along or sets them, whatever they held. -/
theorem errDoesNotInfluenceCommands : Obligations.ErrDoesNotInfluenceCommands := by
  intro i s e c
  obtain ⟨f, hexec, hblind⟩ := exec_errorBlind i s
  refine ⟨f s, f (withError e c s), hexec s, hexec _, ?_⟩
  rcases hblind with ⟨herr, hcause, hf⟩ | hf
  · rw [hf]
    exact ⟨rfl, .inl ⟨herr, hcause, rfl, rfl⟩⟩
  · rw [hf]
    exact ⟨rfl, .inr ⟨rfl, rfl⟩⟩

end Sys2Proof.Machine
end

section
/-! PROOFS. The cursor's invariant and position, at reset and after it (R25, R65, R114, R115, R220, R221). -/

namespace Sys2Proof.Machine

/-- Settles O12: a fill below its count is one refill, which with at most 31 bits held loses none. -/
theorem accumulatorLosesNoBit : Obligations.AccumulatorLosesNoBit := by
  intro s n hn h
  refine ⟨h.fill hn, h.skip hn, fun hlt => ?_⟩
  have hcnt : s.cnt.toNat ≤ 31 := by omega
  obtain ⟨hacc, -, -⟩ := h
  rw [fill_of_lt hlt]
  exact ⟨hcnt, refill_cnt_toNat hcnt, refill_acc_toNat hcnt hacc, refill_offset_toNat s⟩

/-- A rewound cursor stands at position 0 (R65). -/
theorem atPos_rewind (s : State) : AtPos (rewind s) 0 := by
  simp [AtPos, streamVal]

theorem atPos_hostReset (s : State) : AtPos (hostReset s) 0 :=
  AtPos_congr (atPos_rewind { s with len := 0 }) rfl rfl rfl rfl rfl

/-- Power-up's reset values are the reset event's (R220). -/
theorem hostReset_reset : hostReset State.reset = State.reset := rfl

/-- Settles O13: the laws of fill and skip in the stream, and the rewound cursor of BIND and reset. -/
theorem cursorFollowsTheStream : Obligations.CursorFollowsTheStream :=
  ⟨fun _ _ _ h hn => ⟨h.peekBits_eq hn, h.fill hn, h.skip hn⟩,
    fun s L => ⟨_, rfl, AtPos_congr (atPos_rewind { s with len := L }) rfl rfl rfl rfl rfl⟩, atPos_hostReset,
    hostReset_reset ▸ atPos_hostReset State.reset⟩

/-- Settles O57: the machine after power-up is one that a reset leaves. -/
theorem resetMeetsTheInvariant : Obligations.ResetMeetsTheInvariant := by
  unfold Obligations.ResetMeetsTheInvariant
  rw [← hostReset_reset]
  exact machineInv_hostReset memWf_reset

/-- A Reset that waits first is taken, between commands and in a block (R220). -/
theorem step_of_reset_waiting {s : State} {rest : List HostAction} (hi : s.inbox = .reset :: rest) :
    step s = .next (hostReset { s with inbox := rest }) := by
  cases hf : fetchSymbol s with
  | none => exact fetchAndRunBy_idle_cons runPlaced ((fetchSymbol_eq_none s).mp hf) hi
  | some p => exact fetchAndRunBy_reset runPlaced hf hi

/-- An empty datagram and no bit held: every bit the engine can read is zero (R52, R221). -/
def Drained (s : State) : Prop := s.len = 0 ∧ s.acc = 0

theorem Drained.fill {s : State} (h : Drained s) (n : Nat) : Drained (fill n s) := by
  obtain ⟨hlen, hacc⟩ := h
  refine ⟨by simpa using hlen, ?_⟩
  rcases Nat.lt_or_ge s.cnt.toNat n with hn | hn
  · rw [fill_of_lt hn, refill_acc, hacc, memRead4_of_len_le (by simp [hlen])]
    rfl
  · rwa [fill_of_le hn]

theorem Drained.skip {s : State} (h : Drained s) (n : Nat) : Drained (skip n s) := by
  obtain ⟨hlen, hacc⟩ := h.fill n
  exact ⟨hlen, by simp [Machine.skip, hacc]⟩

theorem Drained.peekBits_eq {s : State} (h : Drained s) (n : Nat) : peekBits n s = 0 := by
  obtain ⟨-, hacc⟩ := h.fill n
  simp [peekBits, hacc]

/-- The operations of a block fetch only zeros. -/
theorem BlockOps.drained {s t : State} (h : BlockOps s t) (hs : Drained s) : Drained t := by
  induction h with
  | refl => exact hs
  | fill hn _ ih => exact ih.fill _
  | skip hn _ ih => exact ih.skip _
  | _ => assumption

/-- From an empty datagram every READ and PEEK gives 0, and only a BIND ends it. -/
theorem ExecEffect.drained {i : Instr} {s t : State} (h : ExecEffect s i t) (hs : Drained s)
    (hbind : ∀ L, i = .bind L → L = 0) :
    Drained t ∧ ∀ n : BitVec 6, n.toNat ≤ 32 → i = .read n ∨ i = .peek n → t.result = 0 := by
  cases h with
  | nop => exact ⟨hs, by simp⟩
  | bind L => exact ⟨⟨hbind L rfl, rfl⟩, by simp⟩
  | read hn => exact ⟨hs.skip _, by simp [hs.peekBits_eq]⟩
  | peek hn => exact ⟨hs.fill _, by simp [hs.peekBits_eq]⟩
  | readIllegal hn | peekIllegal hn =>
    refine ⟨hs, ?_⟩
    rintro m hm (h | h) <;> cases h
    omega
  | align => exact ⟨hs.skip _, by simp⟩
  | block hi hops =>
    refine ⟨hops.drained hs, ?_⟩
    rintro n - (rfl | rfl) <;> cases hi

/-- Settles O44: a Reset is taken in any state and drains the machine, and a drained machine stays so. -/
theorem resetGivesTheResetValues : Obligations.ResetGivesTheResetValues := by
  refine ⟨fun s rest hi => step_of_reset_waiting hi, rfl, rfl, rfl, rfl, rfl, rfl,
    fun s => ⟨atPos_hostReset s, rfl, rfl⟩, fun i s t hlen hacc h hbind => ?_⟩
  obtain ⟨⟨hlen', hacc'⟩, hresult⟩ := (effect_of_exec h).drained ⟨hlen, hacc⟩ hbind
  exact ⟨hlen', hacc', hresult⟩

end Sys2Proof.Machine
end

section
/-! PROOFS. The register map (R31, R37, R38, R43). -/

namespace Sys2Proof.Machine

/-- Settles O51, over the values of the four fields. -/
theorem statusWordLayout : Obligations.StatusWordLayout := by
  intro s
  unfold statusWord
  generalize s.err = err, s.dconly = dconly, s.blkvalid = blkvalid, s.cause = cause
  revert err dconly blkvalid cause
  decide

/-- A register read of an aligned word or in the DGM window is answered from the map (R37). -/
theorem hostReadReg_aligned {addr : BitVec 17} (h : 0x10000 ≤ addr.toNat ∨ addr.toNat % 4 = 0) (s : State) :
    hostReadReg addr s = .next { s with rdata := readReg s addr } := by
  have haligned : accessAligned addr = true := by
    rw [← Bool.not_eq_false, accessAligned_eq_false_iff]
    omega
  rw [hostReadReg, if_pos haligned]

/-- An address of 17 bits as a number. -/
theorem toNat_addr {a : Nat} (h : a < 0x20000) : (BitVec.ofNat 17 a).toNat = a := by
  rw [BitVec.toNat_ofNat]
  exact Nat.mod_eq_of_lt h

/-- Between the named registers and the DGM window the map holds the coefficients and zeros (R37). -/
theorem readReg_above_named (s : State) {addr : BitVec 17} (hlo : 0x20 ≤ addr.toNat) (hhi : addr.toNat < 0x10000) :
    readReg s addr =
      if 0x100 ≤ addr.toNat ∧ addr.toNat < 0x200 then s.blk[Fin.ofNat 64 ((addr.toNat - 0x100) / 4)] else 0 := by
  have hwindow : ¬dgmWindow ≤ addr.toNat := Nat.not_le.mpr hhi
  simp only [readReg]
  rw [if_neg hwindow, if_neg (by omega), if_neg (by omega), if_neg (by omega), if_neg (by omega), if_neg (by omega),
    if_neg (by omega), if_neg (by omega)]

/-- The coefficient registers stand word by word from 0x100 on (R37). -/
theorem readReg_blk (s : State) {addr : BitVec 17} {p : Fin 64} (h : addr.toNat = 0x100 + 4 * p.val) :
    readReg s addr = s.blk[p] := by
  have hp := p.isLt
  have hindex : Fin.ofNat 64 ((addr.toNat - 0x100) / 4) = p := by
    apply Fin.ext
    simp only [Fin.ofNat]
    omega
  rw [readReg_above_named s (by omega) (by omega), if_pos (by omega)]
  exact congrArg (fun q : Fin 64 => s.blk[q]) hindex

/-- The DGM window reads a byte, zero-extended (R37). -/
theorem readReg_dgm (s : State) {addr : BitVec 17} {a : BitVec 16} (h : addr.toNat = 0x10000 + a.toNat) :
    readReg s addr = (dgmCell s a.toNat).zeroExtend 32 := by
  have hwindow : dgmWindow ≤ addr.toNat := Nat.le.intro h.symm
  simp only [readReg]
  rw [if_pos hwindow, h, dgmWindow, Nat.add_sub_cancel_left]

/-- The two halves of the accumulator (R37). -/
theorem toNat_halves (x : BitVec 64) : (x.extractLsb' 0 32).toNat + (x.extractLsb' 32 32).toNat * 2 ^ 32 = x.toNat := by
  have := x.isLt
  rw [BitVec.extractLsb'_toNat, BitVec.extractLsb'_toNat, Nat.shiftRight_zero, Nat.shiftRight_eq_div_pow]
  omega

/-- Settles O46: an aligned read is answered from the map, whose content is read off address by address. -/
theorem registerReadsFollowTheMap : Obligations.RegisterReadsFollowTheMap := by
  refine ⟨fun s addr rest hp hi h => ?_, fun s => ⟨rfl, rfl, rfl, BitVec.toNat_setWidth_of_le (b := s.len) (by decide),
    BitVec.toNat_setWidth_of_le (b := s.offset) (by decide), BitVec.toNat_setWidth_of_le (b := s.cnt) (by decide),
    toNat_halves s.acc, fun p => readReg_blk s (toNat_addr ?_), fun a => ?_,
    fun addr _ hlo hhi hblk => (readReg_above_named s hlo hhi).trans (if_neg hblk)⟩⟩
  · exact (fetchAndRunBy_idle_cons runPlaced hp hi).trans (hostReadReg_aligned h { s with inbox := rest })
  · omega
  · rw [readReg_dgm s (toNat_addr (by omega))]
    exact BitVec.toNat_setWidth_of_le (by decide)

/-- Settles O47, range by range of the addresses. -/
theorem registerWritesFollowTheMap : Obligations.RegisterWritesFollowTheMap := by
  refine fun s data => ⟨hostActionBy_writeReg_zero runPlaced data s, fun a => hostActionBy_writeReg_dgm runPlaced a data s,
    fun addr h0 hlt hmod => ?_⟩
  have haligned : accessAligned addr = true := by simp [accessAligned, hmod]
  have hwindow : ¬dgmWindow ≤ addr.toNat := Nat.not_le.mpr hlt
  simp only [hostAction, hostActionBy, hostWriteRegBy]
  rw [if_neg hwindow, if_pos haligned, if_neg h0]

end Sys2Proof.Machine
end

section
/-! PROOFS. The datagram memory: what the engine sees of it, and that only the host writes it (R51, R52, R67). -/

namespace Sys2Proof.Machine

-- What the engine sees

/-- Below len the engine sees DGM (R52). -/
theorem dgmByte_of_lt_len {s : State} {a : Nat} (h : a < s.len.toNat) : dgmByte s a = dgmCell s a := if_pos h

/-- At and beyond len the engine sees 0x00 (R52). -/
theorem dgmByte_of_len_le {s : State} {a : Nat} (h : s.len.toNat ≤ a) : dgmByte s a = 0 := if_neg (Nat.not_lt.mpr h)

/-- DGM reads the byte listed at an address (R39). -/
theorem dgmCell_of_memLookup {s : State} {a : Nat} {b : Byte} (h : memLookup s.dgm a = some b) : dgmCell s a = b := by
  rw [dgmCell, h, Option.getD_some]

/-- Settles O11: below len the engine sees DGM's cell, and beyond it nothing of DGM. -/
theorem engineSeesDatagramBelowLen : Obligations.EngineSeesDatagramBelowLen := fun _ _ =>
  ⟨fun h => ⟨dgmByte_of_lt_len h, fun _ hb => (dgmByte_of_lt_len h).trans (dgmCell_of_memLookup hb)⟩,
    fun h => ⟨dgmByte_of_len_le h, fun _ => dgmByte_of_len_le h⟩⟩

-- A host write and the bits fetched

/-- Bits already fetched are peeked the same after a host write (R67). -/
theorem peekBits_hostWriteDgm {n : Nat} {s : State} (h : n ≤ s.cnt.toNat) (a : BitVec 16) (b : Byte) :
    peekBits n (hostWriteDgm a b s) = peekBits n s := by
  rw [peekBits, peekBits, fill_of_le h, fill_of_le (s := hostWriteDgm a b s) h, hostWriteDgm_acc, hostWriteDgm_cnt]

/-- Consuming bits already fetched and a host write do not disturb each other (R67). -/
theorem skip_hostWriteDgm {n : Nat} {s : State} (h : n ≤ s.cnt.toNat) (a : BitVec 16) (b : Byte) :
    skip n (hostWriteDgm a b s) = hostWriteDgm a b (skip n s) := by
  rw [skip, skip, fill_of_le h, fill_of_le (s := hostWriteDgm a b s) h]
  rfl

/-- Settles O17: with its bits fetched a READ looks at acc and cnt alone, and the engine sees the write in its cell. -/
theorem hostWriteAfterRefillIsNotSeen : Obligations.HostWriteAfterRefillIsNotSeen := by
  refine fun s a b => ⟨fun n hcnt hn => ⟨_, _, exec_read hn s, exec_read hn _, ?_⟩, fun hlt => ?_, fun k hk => ?_⟩
  · rw [peekBits_hostWriteDgm hcnt, skip_hostWriteDgm hcnt]
    rfl
  · rw [dgmByte_of_lt_len (s := hostWriteDgm a b s) hlt, dgmCell_hostWriteDgm, if_pos rfl]
  · rw [dgmByte, dgmByte, dgmCell_hostWriteDgm, if_neg hk, hostWriteDgm_len]

-- Who writes DGM

/-- The operations of a block write no byte of DGM (R51). -/
theorem BlockOps.dgm {s t : State} (h : BlockOps s t) : t.dgm = s.dgm := by
  induction h with
  | refl => rfl
  | _ => simpa [failGetblk, finishGetblk]

/-- No instruction writes DGM (R51). -/
theorem dgm_of_exec {i : Instr} {s t : State} (h : exec i s = .next t) : t.dgm = s.dgm := by
  cases effect_of_exec h with
  | block hi hops => exact hops.dgm
  | _ => simp

/-- No command word writes DGM, legal or not (R51, R194). -/
theorem dgm_of_runPlaced_cmd {cw : Word} {s t : State} (h : runPlaced (.cmd cw) s = .next t) : t.dgm = s.dgm := by
  cases hd : decodeCmd cw with
  | ok i => exact dgm_of_exec ((runPlaced_ok (p := .cmd cw) hd s).symm.trans h)
  | error r =>
    rw [← runPlacedOver_tables, runPlacedOver_cmd_error tables hd] at h
    cases h
    rfl

/-- Settles O45: of what a host action can be, only the datagram write changes DGM. -/
theorem onlyTheHostWritesTheDatagram : Obligations.OnlyTheHostWritesTheDatagram := by
  refine ⟨fun i s t => dgm_of_exec, fun s a b => ⟨_, rfl, rfl, ?_, fun k hk => ?_⟩, fun act s t h hne => ?_⟩
  · rw [dgmCell_hostWriteDgm, if_pos rfl]
  · rw [dgmCell_hostWriteDgm, if_neg hk]
  · rcases hostActionBy_cases runPlaced act s with ⟨-, e⟩ | ⟨a, b, e⟩ | ⟨v, e⟩ | e | ⟨cw, -, e⟩ | e
    · cases e.symm.trans h; exact absurd rfl hne
    · exact ⟨a, b, e⟩
    · cases e.symm.trans h; exact absurd rfl hne
    · cases e.symm.trans h; exact absurd rfl hne
    · exact absurd (dgm_of_runPlaced_cmd (e.symm.trans h)) hne
    · cases e.symm.trans h

end Sys2Proof.Machine
end

section
/-! PROOFS. The patterns of the encodings: a word or a window that holds an instruction's pattern decodes to it (R80 to
R91). -/

namespace Sys2Proof.Machine

-- Command words

/-- The word of R96 as a number. -/
theorem toNat_cmdWord (op : BitVec 4) (arg : BitVec 16) : (cmdWord op arg).toNat = op.toNat * 2 ^ 28 + arg.toNat := by
  rw [cmdWord, BitVec.toNat_append, BitVec.toNat_append, ← Nat.shiftLeft_add_eq_or_of_lt arg.isLt,
    ← Nat.shiftLeft_add_eq_or_of_lt (0 : BitVec 12).isLt, Nat.shiftLeft_eq, Nat.shiftLeft_eq]
  change (op.toNat * 2 ^ 12 + 0) * 2 ^ 16 + arg.toNat = _
  omega

/-- A word of R96 with an op of R80 decodes as its operand does (R81). -/
theorem decodeCmd_cmdWord {op : BitVec 4} (h : op.toNat ≤ 5) (arg : BitVec 16) :
    decodeCmd (cmdWord op arg) = decodeArg op arg := by
  have hword := toNat_cmdWord op arg
  have := arg.isLt
  have hop : (cmdWord op arg).extractLsb' 28 4 = op := by
    apply BitVec.eq_of_toNat_eq
    rw [toNat_opField, hword]
    omega
  have hrsv : (cmdWord op arg).extractLsb' 16 12 = 0 := by
    apply BitVec.eq_of_toNat_eq
    rw [toNat_rsvField, hword]
    change _ = 0
    omega
  have harg : (cmdWord op arg).extractLsb' 0 16 = arg := by
    apply BitVec.eq_of_toNat_eq
    rw [toNat_argField, hword]
    omega
  rw [decodeCmd, hop, hrsv, harg, if_neg (Nat.not_lt.mpr h), if_neg (not_not.mpr rfl)]

/-- A count of at most 32 decodes (R80). -/
theorem decodeCount_zeroExtend {n : BitVec 6} (h : n.toNat ≤ 32) (mk : BitVec 6 → Instr) :
    decodeCount (n.zeroExtend 16) mk = .ok (mk n) := by
  have hhigh : (n.zeroExtend 16).extractLsb' 6 10 = 0 := by
    apply BitVec.eq_of_toNat_eq
    rw [BitVec.extractLsb'_toNat, BitVec.toNat_setWidth, Nat.shiftRight_eq_div_pow]
    change _ = 0
    omega
  have hlow : (n.zeroExtend 16).extractLsb' 0 6 = n := by
    apply BitVec.eq_of_toNat_eq
    rw [BitVec.extractLsb'_toNat, BitVec.toNat_setWidth, Nat.shiftRight_zero]
    omega
  rw [decodeCount, hhigh, hlow, if_neg (not_not.mpr rfl), if_neg (Nat.not_lt.mpr h)]

-- Windows

/-- The k extra bits of a window whose top bits are a one and then x (R88). -/
theorem extraBits_eq {W k j l b : Nat} {w : BitVec W} {x : BitVec k} (h : w.toNat / 2 ^ j = b + x.toNat) (hl : l = j)
    (hb : b = 2 ^ k) : w.extractLsb' l k = x := by
  apply BitVec.eq_of_toNat_eq
  rw [BitVec.extractLsb'_toNat, Nat.shiftRight_eq_div_pow, hl, h, hb, Nat.add_mod_left, Nat.mod_eq_of_lt x.isLt]

/-- The k extra bits of a window whose top bits are a one, then x and then a sign bit (R89). -/
theorem extraBits_eq_of_sign {W k j l b : Nat} {w : BitVec W} {x : BitVec k} {s : Bool}
    (h : w.toNat / 2 ^ j = (b + x.toNat) * 2 + signBit s) (hl : l = j + 1) (hb : b = 2 ^ k) :
    w.extractLsb' l k = x := by
  have hs : signBit s < 2 := by cases s <;> decide
  refine extraBits_eq (j := j + 1) ?_ hl hb
  rw [pow_succ, ← Nat.div_div_eq_div_mul, h]
  omega

/-- The sign bit of a window whose top bits end with it (R89). -/
theorem getLsbD_eq_of_sign {W j l m : Nat} {w : BitVec W} {s : Bool} (h : w.toNat / 2 ^ j = m * 2 + signBit s)
    (hl : l = j) : w.getLsbD l = s := by
  rw [BitVec.getLsbD, Nat.testBit_eq_decide_div_mod_eq, hl, h]
  cases s <;> simp [signBit]

/-- The run class of a window, by the place of its leading one (R86). -/
theorem decodeRun_eq (w : BitVec 12) :
    decodeRun w =
      if w.toNat / 2 ^ 11 = 1 then .run0
      else if w.toNat / 2 ^ 10 = 1 then .run1
      else if w.toNat / 2 ^ 9 = 1 then .run2to3 (w.extractLsb' 8 1)
      else if w.toNat / 2 ^ 8 = 1 then .run4to7 (w.extractLsb' 6 2)
      else if w.toNat / 2 ^ 7 = 1 then .run8to15 (w.extractLsb' 4 3)
      else if w.toNat / 2 ^ 6 = 1 then .run16to31 (w.extractLsb' 2 4)
      else if w.toNat / 2 ^ 5 = 1 then .run32to63 (w.extractLsb' 0 5)
      else .runInvalid := by
  have hbit : ∀ z, z < 12 → (w.extractLsb' (12 - 1 - z) (z + 1) = 1 ↔ w.toNat / 2 ^ (12 - 1 - z) = 1) := fun z =>
    topBits_eq_one_iff w
  simp only [decodeRun, hbit 0 (by decide), hbit 1 (by decide), hbit 2 (by decide), hbit 3 (by decide),
    hbit 4 (by decide), hbit 5 (by decide), hbit 6 (by decide)]

/-- A window that begins with the pattern of a run class decodes to it, whatever follows: the leading-one tests before
the class's own fail and its own holds (R86, R88). -/
theorem decodeRun_of_pattern {i : Instr} {e : Config.RunEntry} (hi : runEntryOf i = some e) {w : BitVec 12}
    (h : w.toNat / 2 ^ (12 - (symbolCode i).1) = (symbolCode i).2) : decodeRun w = i := by
  rw [decodeRun_eq]
  cases i <;> cases hi <;> simp only [symbolCode] at h
  case run0 | run1 | runInvalid => simp (disch := omega) only [if_pos, if_neg]
  case run2to3 x | run4to7 x | run8to15 x | run16to31 x | run32to63 x =>
    have := x.isLt
    simp (disch := omega) only [if_pos, if_neg, extraBits_eq h]

/-- The level class of a window, by the place of its leading one (R87). -/
theorem decodeLev_eq (w : BitVec 15) :
    decodeLev w =
      if w.toNat / 2 ^ 14 = 1 then .lev1 (w.getLsbD 13)
      else if w.toNat / 2 ^ 13 = 1 then .eob
      else if w.toNat / 2 ^ 12 = 1 then .lev2to3 (w.extractLsb' 11 1) (w.getLsbD 10)
      else if w.toNat / 2 ^ 11 = 1 then .lev4to7 (w.extractLsb' 9 2) (w.getLsbD 8)
      else if w.toNat / 2 ^ 10 = 1 then .lev8to15 (w.extractLsb' 7 3) (w.getLsbD 6)
      else if w.toNat / 2 ^ 9 = 1 then .lev16to31 (w.extractLsb' 5 4) (w.getLsbD 4)
      else if w.toNat / 2 ^ 8 = 1 then .lev32to63 (w.extractLsb' 3 5) (w.getLsbD 2)
      else if w.toNat / 2 ^ 7 = 1 then .lev64to127 (w.extractLsb' 1 6) (w.getLsbD 0)
      else .levInvalid := by
  have hbit : ∀ z, z < 15 → (w.extractLsb' (15 - 1 - z) (z + 1) = 1 ↔ w.toNat / 2 ^ (15 - 1 - z) = 1) := fun z =>
    topBits_eq_one_iff w
  simp only [decodeLev, hbit 0 (by decide), hbit 1 (by decide), hbit 2 (by decide), hbit 3 (by decide),
    hbit 4 (by decide), hbit 5 (by decide), hbit 6 (by decide), hbit 7 (by decide)]

/-- A window that begins with the pattern of a level class decodes to it, whatever follows, as for the run classes (R87,
R89). -/
theorem decodeLev_of_pattern {i : Instr} {f : Config.LevEntry} (hi : levEntryOf i = some f) {w : BitVec 15}
    (h : w.toNat / 2 ^ (15 - (symbolCode i).1) = (symbolCode i).2) : decodeLev w = i := by
  have hsign : ∀ s, signBit s < 2 := by decide
  rw [decodeLev_eq]
  cases i <;> cases hi <;> simp only [symbolCode] at h
  case eob | levInvalid => simp (disch := omega) only [if_pos, if_neg]
  case lev1 s =>
    have := hsign s
    simp (disch := omega) only [if_pos, getLsbD_eq_of_sign (m := 1) h]
  case lev2to3 x s | lev4to7 x s | lev8to15 x s | lev16to31 x s | lev32to63 x s | lev64to127 x s =>
    have := x.isLt
    have := hsign s
    simp (disch := omega) only [if_pos, if_neg, extraBits_eq_of_sign h, getLsbD_eq_of_sign h]

/-- A symbol's pattern fits its own length, and its length a level window: `PatternFits`, instruction by instruction. -/
theorem patternFits (i : Instr) : Laws.PatternFits.Statement i := by
  cases i with
  | nop => exact Laws.PatternFits.nop
  | bind L => exact Laws.PatternFits.bind L
  | read n => exact Laws.PatternFits.read n
  | peek n => exact Laws.PatternFits.peek n
  | align => exact Laws.PatternFits.align
  | getblk hc => exact Laws.PatternFits.getblk hc
  | dc d => exact Laws.PatternFits.dc d
  | run0 => exact Laws.PatternFits.run0
  | run1 => exact Laws.PatternFits.run1
  | run2to3 x => exact Laws.PatternFits.run2to3 x
  | run4to7 x => exact Laws.PatternFits.run4to7 x
  | run8to15 x => exact Laws.PatternFits.run8to15 x
  | run16to31 x => exact Laws.PatternFits.run16to31 x
  | run32to63 x => exact Laws.PatternFits.run32to63 x
  | runInvalid => exact Laws.PatternFits.runInvalid
  | lev1 s => exact Laws.PatternFits.lev1 s
  | eob => exact Laws.PatternFits.eob
  | lev2to3 x s => exact Laws.PatternFits.lev2to3 x s
  | lev4to7 x s => exact Laws.PatternFits.lev4to7 x s
  | lev8to15 x s => exact Laws.PatternFits.lev8to15 x s
  | lev16to31 x s => exact Laws.PatternFits.lev16to31 x s
  | lev32to63 x s => exact Laws.PatternFits.lev32to63 x s
  | lev64to127 x s => exact Laws.PatternFits.lev64to127 x s
  | levInvalid => exact Laws.PatternFits.levInvalid

/-- A run pattern's length fits a run window (R86). -/
theorem symbolCode_length_le {i : Instr} {e : Config.RunEntry} (hi : runEntryOf i = some e) :
    (symbolCode i).1 ≤ 12 := by
  cases i <;> cases hi <;> simp [symbolCode]

/-- A window made of a pattern and a tail begins with the pattern. -/
theorem windowOf_pattern {W : Nat} {code : Nat × Nat} (hlen : code.1 ≤ W) (hval : code.2 < 2 ^ code.1) (tail : Nat) :
    (BitVec.ofNat W (windowOf W code tail)).toNat / 2 ^ (W - code.1) = code.2 := by
  have htail : tail % 2 ^ (W - code.1) < 2 ^ (W - code.1) := Nat.mod_lt _ (Nat.two_pow_pos _)
  have hlt : windowOf W code tail < 2 ^ W := by
    calc windowOf W code tail < (code.2 + 1) * 2 ^ (W - code.1) := by rw [windowOf, Nat.add_one_mul]; omega
      _ ≤ 2 ^ code.1 * 2 ^ (W - code.1) := Nat.mul_le_mul_right _ hval
      _ = 2 ^ W := by rw [← pow_add, Nat.add_sub_cancel' hlen]
  rw [BitVec.toNat_ofNat, Nat.mod_eq_of_lt hlt, windowOf, Nat.mul_comm, Nat.mul_add_div (Nat.two_pow_pos _),
    Nat.div_eq_of_lt htail, Nat.add_zero]

end Sys2Proof.Machine
end

section
/-! PROOFS. Decoder and encoder agree: every encoding decodes back, and the legal command words are the encodings (R80 to
R92). -/

namespace Sys2Proof.Machine

/-- The encoding of a run class is a run window with its pattern (R92). -/
theorem encode_of_runEntryOf {i : Instr} {e : Config.RunEntry} (hi : runEntryOf i = some e) (tail : Nat) :
    encode i tail = .run (BitVec.ofNat 12 (windowOf 12 (symbolCode i) tail)) := by
  cases i <;> cases hi <;> rfl

/-- The encoding of a level class is a level window with its pattern (R92). -/
theorem encode_of_levEntryOf {i : Instr} {f : Config.LevEntry} (hi : levEntryOf i = some f) (tail : Nat) :
    encode i tail = .lev (BitVec.ofNat 15 (windowOf 15 (symbolCode i) tail)) := by
  cases i <;> cases hi <;> rfl

/-- Settles O2: a command's fields stand in its word, and a symbol's window begins with its pattern. -/
theorem decodeEncodeRoundTrip : Obligations.DecodeEncodeRoundTrip := by
  intro i tail hwf
  have hcmd : ∀ {op : BitVec 4} (arg : BitVec 16), op.toNat ≤ 5 →
      decode (.cmd (cmdWord op arg)) = decodeArg op arg := fun arg h => decodeCmd_cmdWord h arg
  induction i using instr_ind with
  | nop => exact hcmd 0 (by decide)
  | bind L => exact hcmd L (by decide)
  | read n => exact (hcmd _ (by decide)).trans (decodeCount_zeroExtend (of_decide_eq_true hwf) .read)
  | peek n => exact (hcmd _ (by decide)).trans (decodeCount_zeroExtend (of_decide_eq_true hwf) .peek)
  | align => exact hcmd 0 (by decide)
  | getblk hc => cases hc <;> exact hcmd _ (by decide)
  | dc d => rfl
  | run i e hi =>
    obtain ⟨hval, -⟩ := patternFits i
    rw [encode_of_runEntryOf hi, decode, decodeRun_of_pattern hi (windowOf_pattern (symbolCode_length_le hi) hval tail)]
  | lev i f hi =>
    obtain ⟨hval, hlen⟩ := patternFits i
    rw [encode_of_levEntryOf hi, decode, decodeLev_of_pattern hi (windowOf_pattern hlen hval tail)]

/-- A word is that of R96 where its rsv is 0 and its op and arg are those (R80). -/
theorem cmdWord_eq {cw : Word} {op : BitVec 4} {arg : BitVec 16} (hrsv : cw.toNat / 2 ^ 16 % 2 ^ 12 = 0)
    (hop : cw.toNat / 2 ^ 28 = op.toNat) (harg : cw.toNat % 2 ^ 16 = arg.toNat) : cmdWord op arg = cw := by
  apply BitVec.eq_of_toNat_eq
  rw [toNat_cmdWord, ← hop, ← harg]
  omega

/-- A count of at most 32 is an operand of READ and PEEK (R80). -/
theorem toNat_count {a : Nat} (h : a ≤ 32) :
    (BitVec.ofNat 6 a).toNat ≤ 32 ∧ a = ((BitVec.ofNat 6 a).zeroExtend 16).toNat := by
  rw [BitVec.toNat_setWidth, BitVec.toNat_ofNat]
  omega

/-- A legal word is the encoding of a well-formed instruction (R80, R81). -/
theorem encode_of_legalCmd {cw : Word} (h : LegalCmd cw) :
    ∃ i : Instr, i.wellFormed = true ∧ ∀ tail, encode i tail = .cmd cw := by
  obtain ⟨hrsv, hop, hnop, hread, hpeek, halign, hgetblk⟩ := h
  have henc : ∀ {i : Instr} {op : BitVec 4} {arg : BitVec 16}, i.wellFormed = true →
      (∀ tail, encode i tail = .cmd (cmdWord op arg)) → cw.toNat / 2 ^ 28 = op.toNat →
      cw.toNat % 2 ^ 16 = arg.toNat → ∃ i : Instr, i.wellFormed = true ∧ ∀ tail, encode i tail = .cmd cw :=
    fun hwf henc ho ha => ⟨_, hwf, cmdWord_eq hrsv ho ha ▸ henc⟩
  have hbind := toNat_argField cw
  generalize cw.toNat / 2 ^ 28 = op, cw.toNat % 2 ^ 16 = arg at *
  interval_cases op
  · exact henc (i := .nop) rfl (fun _ => rfl) rfl (hnop rfl)
  · exact henc (i := .bind _) rfl (fun _ => rfl) rfl hbind.symm
  · obtain ⟨hle, harg⟩ := toNat_count (hread rfl)
    exact henc (i := .read _) (decide_eq_true hle) (fun _ => rfl) rfl harg
  · obtain ⟨hle, harg⟩ := toNat_count (hpeek rfl)
    exact henc (i := .peek _) (decide_eq_true hle) (fun _ => rfl) rfl harg
  · exact henc (i := .align) rfl (fun _ => rfl) rfl (halign rfl)
  · have hle := hgetblk rfl
    refine henc (i := .getblk (decide (arg = 1))) rfl (fun _ => rfl) rfl ?_
    interval_cases arg <;> rfl

/-- Settles O3: a legal word is an encoding, which decodes back, and the decoder accepts no other word. -/
theorem commandDecodeAcceptsExactlyLegalWords : Obligations.CommandDecodeAcceptsExactlyLegalWords := by
  intro cw
  refine ⟨fun hop => ?_, fun hop hrsv => ?_, fun hlegal => ?_, decodeCmd_error_of_not_legalCmd⟩
  · rw [decodeCmd, toNat_opField, if_pos hop]
  · have hrsv' : cw.extractLsb' 16 12 ≠ 0 := fun h => hrsv (by rw [← toNat_rsvField, h]; rfl)
    rw [decodeCmd, toNat_opField, if_neg (Nat.not_lt.mpr hop), if_pos hrsv']
  · obtain ⟨i, hwf, henc⟩ := encode_of_legalCmd hlegal
    have hdec : decode (.cmd cw) = .ok i := henc 0 ▸ decodeEncodeRoundTrip i 0 hwf
    exact ⟨i, hdec, hwf, henc, fun s => runPlaced_ok hdec s⟩

/-- Settles O1, each word by evaluation of the decoder. -/
theorem specWordsDecode : Obligations.SpecWordsDecode := by
  exact ⟨rfl, rfl, rfl, rfl, rfl, rfl, rfl, rfl, rfl, rfl, rfl, rfl⟩

end Sys2Proof.Machine
end

section
/-! PROOFS. The block a stream spells, read by the default tables (R95, R163, R170 to R175). -/

namespace Sys2Proof.Machine

/-- The stream's bits from P on begin with the first n of them. -/
theorem streamVal_div (s : State) (P : Nat) {n W : Nat} (h : n ≤ W) :
    streamVal s P W / 2 ^ (W - n) = streamVal s P n := by
  have hsplit := streamVal_add s P n (W - n)
  rw [Nat.add_sub_cancel' h] at hsplit
  rw [hsplit, Nat.mul_comm, Nat.mul_add_div (Nat.two_pow_pos _), Nat.div_eq_of_lt (streamVal_lt s _ _), Nat.add_zero]

/-- The window at P begins with the pattern the stream holds there. -/
theorem CodeAt.window {s : State} {P W : Nat} {i : Instr} (h : CodeAt s P i) (hlen : (symbolCode i).1 ≤ W) :
    (BitVec.ofNat W (streamVal s P W)).toNat / 2 ^ (W - (symbolCode i).1) = (symbolCode i).2 := by
  rw [BitVec.toNat_ofNat, Nat.mod_eq_of_lt (streamVal_lt s P W), streamVal_div s P hlen]
  exact h

/-- Where the stream holds a run code, the default RUNTAB reads the entry of its class (R86, R173). -/
theorem CodeAt.runAt_eq {s : State} {P : Nat} {i : Instr} {e : Config.RunEntry} (h : CodeAt s P i)
    (hi : runEntryOf i = some e) : runAt tables s P = e := by
  have hclass := runEntryOf_decodeRun (BitVec.ofNat 12 (streamVal s P 12))
  rw [decodeRun_of_pattern hi (h.window (symbolCode_length_le hi)), hi] at hclass
  exact (Option.some.inj hclass).symm

/-- Where the stream holds a level code, the default LEVTAB reads the entry of its class (R87, R173). -/
theorem CodeAt.levAt_eq {s : State} {P : Nat} {i : Instr} {f : Config.LevEntry} (h : CodeAt s P i)
    (hi : levEntryOf i = some f) : levAt tables s P = f := by
  have hclass := levEntryOf_decodeLev (BitVec.ofNat 15 (streamVal s P 15))
  rw [decodeLev_of_pattern hi (h.window (patternFits i).2), hi] at hclass
  exact (Option.some.inj hclass).symm

-- The encoders' symbols

/-- The entry of run r: the length of its code, and r (R163). -/
def runEntryFor (r : Nat) : Config.RunEntry := ⟨true, (symbolCode (runSymbolOf r)).1, r⟩

/-- The entry of level v: the length of its code, and v (R163). -/
def levEntryFor (v : Int) : Config.LevEntry := ⟨true, (symbolCode (levSymbolOf v)).1, v, false⟩

/-- EncRun's symbol stands for the entry of its run (R163). -/
theorem runEntryOf_runSymbolOf {r : Nat} (h : r ≤ 63) : runEntryOf (runSymbolOf r) = some (runEntryFor r) := by
  unfold runEntryFor runSymbolOf
  split_ifs <;> simp [runEntryOf, runEntry, symbolCode] <;> omega

/-- EncLev's symbol stands for the entry of its level (R163). -/
theorem levEntryOf_levSymbolOf {v : Int} (h0 : v ≠ 0) (h : v.natAbs ≤ 127) :
    levEntryOf (levSymbolOf v) = some (levEntryFor v) := by
  unfold levEntryFor levSymbolOf
  simp only
  split_ifs <;> simp [levEntryOf, levEntry, symbolCode] <;> split_ifs <;> omega

-- The pairs

/-- The entries of the pairs. -/
def entriesFor (ps : List (Nat × Int)) : List (Config.RunEntry × Config.LevEntry) :=
  ps.map fun p => (runEntryFor p.1, levEntryFor p.2)

theorem pairsOf_entriesFor (ps : List (Nat × Int)) : pairsOf (entriesFor ps) = ps := by
  simp [pairsOf, entriesFor, runEntryFor, levEntryFor, Function.comp_def]

theorem entriesLen_entriesFor (ps : List (Nat × Int)) : entriesLen (entriesFor ps) = pairsLen ps := by
  induction ps with
  | nil => rfl
  | cons p ps ih => exact congrArg _ ih

theorem PairsFit.runsFit {i : Nat} {ps : List (Nat × Int)} (h : PairsFit i ps) : RunsFit i ps := by
  induction ps generalizing i with
  | nil => trivial
  | cons p ps ih =>
    obtain ⟨-, -, hz, hrest⟩ := h
    exact ⟨hz, ih hrest⟩

/-- The default tables read pairs the stream spells as their entries (R95, R173). -/
theorem PairsAt.entriesAt {s : State} {P i : Nat} {ps : List (Nat × Int)} (h : PairsAt s P ps) (hfit : PairsFit i ps) :
    EntriesAt tables s P (entriesFor ps) := by
  induction ps generalizing P i with
  | nil => trivial
  | cons p ps ih =>
    obtain ⟨hrun, hlev, hrest⟩ := h
    obtain ⟨hv0, hv, hz, hfit⟩ := hfit
    exact ⟨hrun.runAt_eq (runEntryOf_runSymbolOf (by omega)), rfl, hlev.levAt_eq (levEntryOf_levSymbolOf hv0 hv), rfl,
      rfl, ih hrest hfit⟩

/-- A GETBLK 1 at pairs the stream spells comes to the place after them, and ends where the symbols from there on
end. -/
theorem atPair_after_pairs {s : State} {P : Nat} {ps : List (Nat × Int)} (h : AtPos s P) (hfit : PairsFit 1 ps)
    (hat : PairsAt s (P + 10) ps) :
    ∃ t, AtPair s t (P + 10 + pairsLen ps) (pairsEnd 1 ps) (placePairs tables 1 ps (dcBlk tables (streamVal s P 10))) ∧
      ∀ m, ((symbolAt tables)^[m] t).phase = .idle → getblk tables true s = (symbolAt tables)^[m] t := by
  have hfit' : RunsFit 1 (pairsOf (entriesFor ps)) := (pairsOf_entriesFor ps).symm ▸ hfit.runsFit
  obtain ⟨k, hpair⟩ :=
    (atPair_first tables h).iterate_entries entriesInRange_tables (entriesFor ps) (hat.entriesAt hfit) hfit'
  rw [pairsOf_entriesFor, entriesLen_entriesFor] at hpair
  refine ⟨_, hpair, fun m hm => getblk_eq_of_iterate (k := m + k + 1) ?_ hm⟩
  rw [← Function.iterate_add_apply]
  rfl

/-- A run code the stream holds is consumed, and its level code is next (R173). -/
theorem AtPair.symbolAt_runCode {s t : State} {P i r : Nat} {b : Vector Word 64} (h : AtPair s t P i b) (hr : r ≤ 63)
    (hrun : CodeAt s P (runSymbolOf r)) :
    AtLevel s (symbolAt tables t) (P + (symbolCode (runSymbolOf r)).1) i r b := by
  have hentry := hrun.runAt_eq (runEntryOf_runSymbolOf hr)
  have hlevel := h.symbolAt_valid entriesInRange_tables (by rw [hentry]; rfl)
  rwa [hentry] at hlevel

/-- The end-of-block code in the stream ends the block without error, whatever run stands before it (R174). -/
theorem AtLevel.symbolAt_eobCode {s t : State} {P i r : Nat} {b : Vector Word 64} (h : AtLevel s t P i r b)
    (heob : CodeAt s P .eob) :
    symbolAt tables t = afterGetblk s (symbolAt tables t) true b true s.err s.cause ∧
      AtPos (symbolAt tables t) (P + 2) := by
  have hentry : levAt tables s P = eobEntry := heob.levAt_eq rfl
  have hend := h.symbolAt_eob entriesInRange_tables (by rw [hentry]; rfl) (by rw [hentry]; rfl)
  rwa [hentry] at hend

/-- Settles O27: the pairs are consumed and placed, and the end-of-block code after them ends the block. -/
theorem getblkDecodesTheBlockTheStreamSpells : Obligations.GetblkDecodesTheBlockTheStreamSpells := by
  intro s P ps r h hfit hat hr hrun heob
  obtain ⟨t, hpair, hget⟩ := atPair_after_pairs h hfit hat
  have hend := (hpair.symbolAt_runCode hr hrun).symbolAt_eobCode heob
  have hblock : getblk tables true s = symbolAt tables (symbolAt tables t) := hget 2 (congrArg State.phase hend.1)
  rw [← hblock] at hend
  exact ⟨_, rfl, hend⟩

end Sys2Proof.Machine
end

section
/-! PROOFS. The bit reader: what a peek and a skip take from the accumulator, and what they read of the stream (R110 to
R114, R118 to R124). -/

namespace Sys2Proof.Machine

-- RESULT, and the frame of READ and PEEK

/-- A peek's value has no more bits than were asked for (R111). -/
theorem peekBits_lt (n : Nat) (s : State) : peekBits n s < 2 ^ n := Nat.mod_lt _ (Nat.two_pow_pos n)

/-- RESULT holds a peek of at most 32 bits whole (R36). -/
theorem toNat_result_peekBits {n : Nat} (hn : n ≤ 32) (s t : State) :
    (setResult (peekBits n s) t).result.toNat = peekBits n s := by
  rw [setResult_result, BitVec.toNat_ofNat]
  exact Nat.mod_eq_of_lt ((peekBits_lt n s).trans_le (Nat.pow_le_pow_right (by decide) hn))

/-- An update of the cursor, then of RESULT, changes nothing else (R118, R119). -/
theorem setResult_frame {s t : State} (h : t = withCursor s t) (v : Nat) :
    setResult v t = { withCursor s (setResult v t) with result := (setResult v t).result } :=
  congrArg (setResult v) h

@[simp] theorem setResult_setResult (v w : Nat) (s : State) : setResult v (setResult w s) = setResult v s := rfl

/-- A fill does not look at RESULT (R110). -/
@[simp] theorem fill_setResult (n v : Nat) (s : State) : fill n (setResult v s) = setResult v (fill n s) :=
  (apply_ite (setResult v) (s.cnt.toNat < n) (refill s) s).symm

/-- Nor does a peek (R111). -/
@[simp] theorem peekBits_setResult (n v : Nat) (s : State) : peekBits n (setResult v s) = peekBits n s := by
  rw [peekBits, fill_setResult, setResult_acc, setResult_cnt, peekBits]

-- The accumulator

/-- After a peek the same peek returns the same value (R111, R119). -/
theorem peekBits_fill {n : Nat} (hn : n ≤ 32) (s : State) : peekBits n (fill n s) = peekBits n s := by
  rw [peekBits, fill_fill le_rfl hn, peekBits]

/-- With n bits held a peek returns the top n of them (R111). -/
theorem peekBits_of_le {n : Nat} {s : State} (h : n ≤ s.cnt.toNat) :
    peekBits n s = s.acc.toNat / 2 ^ (s.cnt.toNat - n) % 2 ^ n := by
  rw [peekBits, fill_of_le h, Nat.shiftRight_eq_div_pow]

/-- With fewer than n bits held a peek takes them after one refill, which supplies enough (R111). -/
theorem peekBits_of_lt {n : Nat} {s : State} (hn : n ≤ 32) (h : s.cnt.toNat < n) :
    peekBits n s = peekBits n (refill s) := by
  rw [← peekBits_fill hn, fill_of_lt h]

/-- With n bits held a skip consumes them without a refill (R112). -/
theorem skip_of_le {n : Nat} {s : State} (h : n ≤ s.cnt.toNat) : skip n s = consume n s := by
  rw [skip, fill_of_le h]

/-- With fewer than n bits held a skip consumes after one refill (R112). -/
theorem skip_of_lt {n : Nat} {s : State} (h : s.cnt.toNat < n) : skip n s = consume n (refill s) := by
  rw [skip, fill_of_lt h]

/-- A refill appends its word to the accumulator, in 64 bits (R110). -/
theorem refill_acc_toNat_mod (s : State) :
    (refill s).acc.toNat = (s.acc.toNat * 2 ^ 32 + memRead4 s s.offset.toNat) % 2 ^ 64 := by
  rw [refill_acc, BitVec.toNat_ofNat]

/-- Settles O20: a refill when bits are missing, then the peek and the consuming of bits that are held. -/
theorem readTakesBitsFromTheAccumulator : Obligations.ReadTakesBitsFromTheAccumulator := by
  refine fun s n hn => ⟨_, exec_read hn s, setResult_frame (skip_frame _ s) _, fun hle => ?_, fun hlt => ?_⟩
  · rw [toNat_result_peekBits hn, peekBits_of_le hle, skip_of_le hle]
    have hcnt := consume_cnt_toNat n.toNat s
    exact ⟨rfl, rfl, hcnt, hcnt ▸ consume_acc_toNat n.toNat s⟩
  · have hrefill := refill_cnt_toNat (s := s) (by omega)
    have hcnt := consume_cnt_toNat n.toNat (refill s)
    have hacc := consume_acc_toNat n.toNat (refill s)
    rw [toNat_result_peekBits hn, peekBits_of_lt hn hlt, peekBits_of_le (by omega), skip_of_lt hlt]
    simp only [setResult_cnt, setResult_acc, setResult_offset, consume_offset]
    rw [hacc, hcnt, hrefill, refill_acc_toNat_mod, refill_offset_toNat]
    exact ⟨rfl, rfl, rfl, Nat.mod_mod_of_dvd _ (Nat.pow_dvd_pow 2 (by omega))⟩

-- The stream

/-- A skip leaves the stream (R54). -/
theorem streamVal_skip (n : Nat) (s : State) (p k : Nat) : streamVal (skip n s) p k = streamVal s p k :=
  streamVal_congr (skip_dgm n s) (skip_len n s) p k

/-- Settles O14, by induction on the counts: the first field's bits stand before those of the others. -/
theorem fieldsReassembleTheStream : Obligations.FieldsReassembleTheStream := by
  intro s P ns h hns
  induction ns generalizing s P with
  | nil => exact ⟨rfl, h⟩
  | cons n ns ih =>
    have hn : n ≤ 32 := hns n List.mem_cons_self
    obtain ⟨hval, hpos⟩ := ih (skip n s) (P + n) (h.skip hn) fun m hm => hns m (List.mem_cons_of_mem n hm)
    rw [streamVal_skip] at hval
    rw [List.sum_cons, ← Nat.add_assoc, streamVal_add]
    refine ⟨?_, hpos⟩
    rw [readFields, h.peekBits_eq hn, hval]

/-- Settles O21: the peeked bits are the stream's, and the skip moves the position past them. -/
theorem readReturnsStreamBits : Obligations.ReadReturnsStreamBits := fun s _ _ h hn =>
  ⟨_, exec_read hn s, (toNat_result_peekBits hn s _).trans (h.peekBits_eq hn), (atPos_setResult _ _ _).mpr (h.skip hn),
    setResult_frame (skip_frame _ s) _⟩

/-- Settles O16: the stream's bits at and beyond the end are zero, and READ's frame holds ERR and CAUSE. -/
theorem readingPastTheEndGivesZeros : Obligations.ReadingPastTheEndGivesZeros := by
  intro s P n h hend hn
  refine ⟨_, exec_read hn s, ?_, skip_err _ s, skip_cause _ s, (atPos_setResult _ _ _).mpr (h.skip hn)⟩
  rw [h.peekBits_eq hn, streamVal_past_end hend]
  rfl

/-- Settles O22: PEEK is READ's fill without its consuming, and once filled nothing is left to refill. -/
theorem peekLooksWithoutConsuming : Obligations.PeekLooksWithoutConsuming := by
  intro s n hn
  refine ⟨_, exec_peek hn s, setResult_frame (fill_frame _ s) _, fun P h => ⟨?_, ?_⟩, ?_, ⟨_, exec_read hn _, ?_⟩,
    ⟨_, exec_read hn s, rfl⟩⟩
  · exact (atPos_setResult _ _ _).mpr (h.fill hn)
  · exact (toNat_result_peekBits hn s _).trans (h.peekBits_eq hn)
  · rw [exec_peek hn, peekBits_setResult, peekBits_fill hn, fill_setResult, fill_fill le_rfl hn, setResult_setResult]
  · rw [peekBits_setResult, peekBits_fill hn, setResult_result, setResult_result]

-- Beyond the end of the datagram

/-- With offset at or beyond len a fill leaves the same wherever offset stands, but for offset itself (R52, R124). -/
theorem fill_withOffset {s : State} {o : BitVec 18} (hs : s.len.toNat ≤ s.offset.toNat) (ho : s.len.toNat ≤ o.toNat)
    (n : Nat) :
    fill n { s with offset := o } = { fill n s with offset := (fill n { s with offset := o }).offset } := by
  rcases Nat.lt_or_ge s.cnt.toNat n with hn | hn
  · rw [fill_of_lt hn, fill_of_lt (s := { s with offset := o }) hn]
    simp only [refill, memRead4_of_len_le hs, memRead4_of_len_le (s := { s with offset := o }) ho]
  · rw [fill_of_le hn, fill_of_le (s := { s with offset := o }) hn]

/-- Settles O15: past the end a refill's word is zero whatever offset is, and the fetched bits end at a byte's boundary. -/
theorem saturatedOffsetChangesNoOutput : Obligations.SaturatedOffsetChangesNoOutput := by
  refine ⟨fun s o n hs ho => ?_, fun s P h => h.add_cnt_mod⟩
  have hfill := fill_withOffset hs ho n
  refine ⟨?_, congrArg (consume n) hfill⟩
  rw [peekBits, congrArg State.acc hfill, congrArg State.cnt hfill, peekBits]

end Sys2Proof.Machine
end

section
/-! PROOFS. The commands NOP, BIND, ALIGN and the illegal counts of READ and PEEK (R116 to R121). -/

namespace Sys2Proof.Machine

-- ALIGN

/-- ALIGN (R120). -/
theorem exec_align (s : State) : exec .align s = .next (skip (s.cnt.toNat % 8) s) := rfl

/-- ALIGN skips no more bits than are held, so it does not refill (R120). -/
theorem skip_align (s : State) : skip (s.cnt.toNat % 8) s = consume (s.cnt.toNat % 8) s :=
  skip_of_le (Nat.mod_le _ _)

/-- No bits consumed of an accumulator that holds no more than its count: nothing moves (R112). -/
theorem consume_zero {s : State} (h : s.acc.toNat < 2 ^ s.cnt.toNat) : consume 0 s = s := by
  simp [consume, Nat.mod_eq_of_lt h]

/-- With a whole number of bytes held ALIGN moves nothing (R121). -/
theorem exec_align_of_aligned {s : State} (hc : s.cnt.toNat % 8 = 0) (ha : s.acc.toNat < 2 ^ s.cnt.toNat) :
    exec .align s = .next s := by
  rw [exec_align, skip_align, hc, consume_zero ha]

/-- Settles O24: ALIGN consumes bits that are held, and their number is the distance to the next boundary. -/
theorem alignMovesToByteBoundary : Obligations.AlignMovesToByteBoundary := by
  intro s
  have hcnt := consume_cnt_toNat (s.cnt.toNat % 8) s
  refine ⟨_, exec_align s, skip_frame _ s, ?_, ?_, ?_, fun P h => ?_⟩
  · rw [skip_align, consume_offset]
  · rw [skip_align, hcnt]
  · rw [skip_align, hcnt, consume_acc_toNat]
  · have hmod := h.add_cnt_mod
    have hpos := h.skip (n := s.cnt.toNat % 8) (by omega)
    rwa [show P + s.cnt.toNat % 8 = (P + 7) / 8 * 8 by omega] at hpos

/-- Settles O25: at a boundary, after BIND or reset, and after ALIGN a whole number of bytes is held. -/
theorem alignOnBoundaryMovesNothing : Obligations.AlignOnBoundaryMovesNothing := by
  refine ⟨fun s P h hP => ?_, fun s L => ⟨_, rfl, exec_align_of_aligned rfl (by simp)⟩,
    fun s => exec_align_of_aligned rfl (by simp), fun s => ⟨_, exec_align s, ?_⟩⟩
  · have hmod := h.add_cnt_mod
    obtain ⟨hacc, -⟩ := h
    exact exec_align_of_aligned (by omega) (hacc ▸ streamVal_lt s P _)
  · have hcnt := consume_cnt_toNat (s.cnt.toNat % 8) s
    rw [skip_align]
    refine exec_align_of_aligned (by omega) ?_
    rw [hcnt, consume_acc_toNat]
    exact Nat.mod_lt _ (Nat.two_pow_pos _)

-- The words of NOP and BIND

/-- The host's illegal word (R194). -/
theorem hostAction_cmd_illegal {cw : Word} (h : ¬LegalCmd cw) (s : State) :
    hostAction (.cmd cw) s = .next { s with err := true, cause := 4 } :=
  hostActionOver_tables ▸ hostActionOver_cmd_illegal tables h s

/-- Settles O18: the word 0 decodes to NOP, and no other word with op 0 is legal. -/
theorem nopChangesNothing : Obligations.NopChangesNothing := by
  refine fun s => ⟨rfl, runPlaced_ok (p := .cmd 0) (i := .nop) rfl s, fun cw hop hne => hostAction_cmd_illegal ?_ s⟩
  rintro ⟨hrsv, -, hnop, -⟩
  exact hne (BitVec.eq_of_toNat_eq (by have := hnop hop; change _ = 0; omega))

/-- Settles O19: BIND is a rewind with ERR and CAUSE cleared, and the words with op 1 and rsv 0 are its encodings. -/
theorem bindStartsADatagram : Obligations.BindStartsADatagram := by
  refine fun s => ⟨fun L => rfl, fun L t ht => ?_, fun cw hop hrsv => ?_, fun cw hop hrsv => hostAction_cmd_illegal ?_ s⟩
  · obtain ⟨-, hbind, -⟩ := cursorFollowsTheStream
    obtain ⟨u, hu, hpos⟩ := hbind s L
    cases hu.symm.trans ht
    exact hpos
  · have hword : cmdWord 1 (BitVec.ofNat 16 cw.toNat) = cw := cmdWord_eq hrsv hop (BitVec.toNat_ofNat _ _).symm
    have hdec : decodeCmd (cmdWord 1 (BitVec.ofNat 16 cw.toNat)) = .ok (.bind (BitVec.ofNat 16 cw.toNat)) :=
      decodeCmd_cmdWord (by decide) _
    rw [hword] at hdec
    exact runPlaced_ok (p := .cmd cw) hdec s
  · exact fun hlegal => hrsv hlegal.1

-- Illegal counts

/-- Settles O23: both commands take ILLEGAL_CMD. -/
theorem countsAbove32ReadNothing : Obligations.CountsAbove32ReadNothing := fun s _ hn =>
  ⟨exec_read_illegal hn s, exec_peek_illegal hn s⟩

end Sys2Proof.Machine
end

section
/-! PROOFS. The default tables: their classes, the shape R131, R145 and R157 ask for, the encoders they invert, and the
scan (R132, R141, R146, R156, R159, R163). -/

namespace Sys2Proof.Machine

/-- Settles O5: the run class of a window stands for RunRule's entry there. -/
theorem runTableIsItsClasses : Obligations.RunTableIsItsClasses := fun w => ⟨rfl, runEntryOf_decodeRun w⟩

/-- Settles O6: the level class of a window stands for LevRule's entry there. -/
theorem levelTableIsItsClasses : Obligations.LevelTableIsItsClasses := fun w => ⟨rfl, levEntryOf_decodeLev w⟩

-- Windows that begin with a pattern

/-- RunRule gives every window that begins with a run class's pattern that class's entry (R132, R141). -/
theorem runRule_of_pattern {i : Instr} {e : Config.RunEntry} (hi : runEntryOf i = some e) {w : BitVec 12}
    (h : w.toNat / 2 ^ (12 - (symbolCode i).1) = (symbolCode i).2) : runRule w = e := by
  have hclass := runEntryOf_decodeRun w
  rw [decodeRun_of_pattern hi h, hi] at hclass
  exact (Option.some.inj hclass).symm

/-- LevRule gives every window that begins with a level class's pattern that class's entry (R146, R156). -/
theorem levRule_of_pattern {i : Instr} {f : Config.LevEntry} (hi : levEntryOf i = some f) {w : BitVec 15}
    (h : w.toNat / 2 ^ (15 - (symbolCode i).1) = (symbolCode i).2) : levRule w = f := by
  have hclass := levEntryOf_decodeLev w
  rw [decodeLev_of_pattern hi h, hi] at hclass
  exact (Option.some.inj hclass).symm

/-- Settles O8: EncRun's and EncLev's symbols stand for the entries of their run and value. -/
theorem tablesInvertTheEncoders : Obligations.TablesInvertTheEncoders :=
  ⟨fun _ _ hr h => runRule_of_pattern (runEntryOf_runSymbolOf hr) h,
    fun _ _ h0 hv h => levRule_of_pattern (levEntryOf_levSymbolOf h0 hv) h⟩

/-- A window begins with the pattern of its own run class (R86). -/
theorem decodeRun_pattern (w : BitVec 12) :
    w.toNat / 2 ^ (12 - (symbolCode (decodeRun w)).1) = (symbolCode (decodeRun w)).2 := by
  have := w.isLt
  rw [decodeRun_eq]
  split_ifs <;> simp only [symbolCode, BitVec.extractLsb'_toNat, Nat.shiftRight_eq_div_pow] <;> omega

/-- The sign bit of a window as a number (R89). -/
theorem signBit_getLsbD {W : Nat} (w : BitVec W) (k : Nat) : signBit (w.getLsbD k) = w.toNat / 2 ^ k % 2 := by
  rw [BitVec.getLsbD, Nat.testBit_eq_decide_div_mod_eq, signBit]
  simp only [decide_eq_true_eq]
  split_ifs <;> omega

/-- A window begins with the pattern of its own level class (R87). -/
theorem decodeLev_pattern (w : BitVec 15) :
    w.toNat / 2 ^ (15 - (symbolCode (decodeLev w)).1) = (symbolCode (decodeLev w)).2 := by
  have := w.isLt
  rw [decodeLev_eq]
  split_ifs <;>
    simp only [symbolCode, signBit_getLsbD, BitVec.extractLsb'_toNat, Nat.shiftRight_eq_div_pow] <;> omega

-- The shape of the tables

/-- The entry of a run class is valid with its pattern's length, or the zero entry (R131, R140). -/
theorem runEntryOf_shape {i : Instr} {e : Config.RunEntry} (hi : runEntryOf i = some e) :
    e.valid = true ∧ e.nbits = (symbolCode i).1 ∨ e = ⟨false, 0, 0⟩ := by
  cases i <;> cases hi <;> simp [runEntry, invalidRunEntry, symbolCode]

/-- The entry of a level class is valid with its pattern's length, or the zero entry (R145, R155). -/
theorem levEntryOf_shape {i : Instr} {f : Config.LevEntry} (hi : levEntryOf i = some f) :
    f.valid = true ∧ f.nbits = (symbolCode i).1 ∨ f = ⟨false, 0, 0, false⟩ := by
  cases i <;> cases hi <;> simp [levEntry, eobEntry, invalidLevEntry, symbolCode]

/-- R145's condition on a valid level entry's value: within 127, and 0 exactly for an end of block. -/
def LevValueWf (f : Config.LevEntry) : Prop :=
  -127 ≤ f.value ∧ f.value ≤ 127 ∧ (f.eob = true → f.value = 0) ∧ (f.eob = false → f.value ≠ 0)

/-- A magnitude 1 to 127 with its sign meets it (R89). -/
theorem levValueWf_levEntry {n base x : Nat} (s : Bool) (h0 : 1 ≤ base + x) (h : base + x ≤ 127) :
    LevValueWf (levEntry n base x s) := by
  refine ⟨?_, ?_, nofun, fun _ => ?_⟩ <;> cases s <;>
    simp only [levEntry, Bool.false_eq_true, if_true, if_false] <;> omega

/-- Every valid level class meets it (R147 to R154). -/
theorem levEntryOf_value {i : Instr} {f : Config.LevEntry} (hi : levEntryOf i = some f) (hv : f.valid = true) :
    LevValueWf f := by
  cases i <;> cases hi
  case eob => simp [LevValueWf, eobEntry]
  case levInvalid => cases hv
  case lev1 s => exact levValueWf_levEntry s (by decide) (by decide)
  case lev2to3 x s | lev4to7 x s | lev8to15 x s | lev16to31 x s | lev32to63 x s | lev64to127 x s =>
    exact levValueWf_levEntry s (by omega) (by omega)

/-- RunRule's table has the shape R131 asks for: a window that shares the bits an entry consumes shares its pattern. -/
theorem runTabWf_runRule : runTabWf runRule := by
  intro w
  have hi := runEntryOf_decodeRun w
  rcases runEntryOf_shape hi with ⟨hv, hn⟩ | hzero
  · obtain ⟨hpos, hle, hrun⟩ := runEntryOf_range hi hv
    rw [if_pos hv]
    refine ⟨hpos, hle, hrun, fun v hsame => runRule_of_pattern hi ?_⟩
    rw [← decodeRun_pattern w, ← hn]
    exact hsame
  · rw [if_neg (by simp [hzero])]
    exact hzero

/-- LevRule's table has the shape R145 asks for, as for the runs. -/
theorem levTabWf_levRule : levTabWf levRule := by
  intro w
  have hi := levEntryOf_decodeLev w
  rcases levEntryOf_shape hi with ⟨hv, hn⟩ | hzero
  · obtain ⟨hlen, hle⟩ := levEntryOf_range hi hv
    obtain ⟨hlo, hhi, heob, hne⟩ := levEntryOf_value hi hv
    rw [if_pos hv]
    refine ⟨by omega, hle, hlo, hhi, heob, hne, fun v hsame => levRule_of_pattern hi ?_⟩
    rw [← decodeLev_pattern w, ← hn]
    exact hsame
  · rw [if_neg (by simp [hzero])]
    exact hzero

-- The scan

/-- The place of a position on the scan of the anti-diagonals: its anti-diagonal first, then its row, downwards on an
odd one and upwards on an even one (R157). -/
def scanKey (p : Fin 64) : Nat :=
  8 * (p.val / 8 + p.val % 8) + if (p.val / 8 + p.val % 8) % 2 = 1 then p.val / 8 else 7 - p.val / 8

/-- A later place on the scan is on a later anti-diagonal, or further along the same one. -/
theorem later_of_scanKey_lt {p q : Fin 64} (h : scanKey p < scanKey q) :
    p.val / 8 + p.val % 8 < q.val / 8 + q.val % 8 ∨ p.val / 8 + p.val % 8 = q.val / 8 + q.val % 8 ∧
      if (p.val / 8 + p.val % 8) % 2 = 1 then p.val / 8 < q.val / 8 else q.val / 8 < p.val / 8 := by
  have hp : p.val / 8 ≤ 7 := by omega
  have hq : q.val / 8 ≤ 7 := by omega
  unfold scanKey at h
  split_ifs at h <;> split_ifs <;> omega

/-- ZIGZAG runs through the positions in the order of the scan, each step of it onwards (R157). -/
theorem strictMono_scanKey_zigzag : StrictMono (scanKey ∘ zigzag) := by
  rw [Fin.strictMono_iff_lt_succ]
  decide

/-- ZIGZAG is one-to-one and fixes 0 (R157). -/
theorem zigzagWf_zigzag : zigzagWf zigzag :=
  ⟨fun _ _ h => strictMono_scanKey_zigzag.injective (congrArg scanKey h), rfl⟩

/-- Settles O7, table by table. -/
theorem defaultTablesAreWellFormed : Obligations.DefaultTablesAreWellFormed :=
  ⟨runTabWf_runRule, levTabWf_levRule, zigzagWf_zigzag⟩

/-- Settles O9: QUANT and the list of ZIGZAG by evaluation, the anti-diagonals from the places on the scan. -/
theorem defaultScanAndQuantiser : Obligations.DefaultScanAndQuantiser :=
  ⟨by decide, rfl, fun _ _ h => later_of_scanKey_lt (strictMono_scanKey_zigzag h)⟩

end Sys2Proof.Machine
end

section
/-! PROOFS. The dequantising multiply, and the coefficients a GETBLK leaves (R160 to R162, R182). -/

namespace Sys2Proof.Machine

/-- The bounds of a value's product with a quantiser (R162). -/
theorem product_bounds {v a : Int} {q b : Nat} (hlo : -a ≤ v) (hhi : v ≤ a) (hq : q ≤ b) :
    -(a * b) ≤ v * q ∧ v * q ≤ a * b := by
  have hv : |v| ≤ a := abs_le.mpr ⟨hlo, hhi⟩
  rw [← abs_le, abs_mul, Nat.abs_cast]
  exact mul_le_mul hv (Nat.cast_le.mpr hq) (Nat.cast_nonneg q) ((abs_nonneg v).trans hv)

/-- A quantiser is a byte (R159). -/
theorem toNat_quantiser_le (q : BitVec 8) : q.toNat ≤ 255 := Nat.le_of_lt_succ q.isLt

/-- A product within 32 bits is stored exactly (R162). -/
theorem toInt_dequant {v : Int} {q : BitVec 8} (hlo : -1023 ≤ v) (hhi : v ≤ 1023) :
    (dequant v q).toInt = v * q.toNat := by
  have := product_bounds hlo hhi (toNat_quantiser_le q)
  rw [dequant, BitVec.toInt_ofInt]
  exact Int.bmod_eq_of_le (by omega) (by omega)

/-- Settles O10: both kinds of product are within 32 bits, and so exact. -/
theorem dequantisingIsExact : Obligations.DequantisingIsExact := by
  refine fun q => ⟨fun d => ?_, fun v hlo hhi => ?_⟩
  · have hd : (d.toNat : Int) ≤ 1023 := by omega
    exact ⟨toInt_dequant (by omega) hd, (product_bounds (by omega) hd (toNat_quantiser_le q)).2⟩
  · have hbounds := product_bounds hlo hhi (toNat_quantiser_le q)
    rw [toInt_dequant (by omega) (by omega), toInt_dequant (v := -v) (by omega) (by omega), neg_mul]
    exact ⟨rfl, hbounds.2, hbounds.1, rfl⟩

/-- The ranges R182 allows a block's coefficients over the quantiser of T. -/
def CoefficientsInRange (T : Config.Tables) (b : Vector Word 64) : Prop :=
  (∃ d : Nat, d ≤ 1023 ∧ (b[(0 : Fin 64)]).toInt = (d : Int) * (T.quant 0).toNat) ∧
    ∀ p : Fin 64, p ≠ 0 → ∃ v : Int, -127 ≤ v ∧ v ≤ 127 ∧ (b[p]).toInt = v * (T.quant p).toNat

/-- The zero fill with a DC value stored is within them (R171, R172). -/
theorem coefficientsInRange_dc (T : Config.Tables) (d : BitVec 10) :
    CoefficientsInRange T (zeroBlk.set 0 (dequant d.toNat (T.quant 0))) := by
  have hd : d.toNat ≤ 1023 := by omega
  refine ⟨⟨d.toNat, hd, ?_⟩, fun p hp => ⟨0, by decide, by decide, ?_⟩⟩
  · simpa using toInt_dequant (v := d.toNat) (by omega) (by omega)
  · have hne : 0 ≠ p.val := fun h => hp (Fin.ext h.symm)
    simp [zeroBlk, hne]

/-- A level stored at a place other than 0 keeps them (R175). -/
theorem CoefficientsInRange.set {T : Config.Tables} {b : Vector Word 64} (h : CoefficientsInRange T b) {j : Fin 64}
    (hj : j ≠ 0) {v : Int} (hlo : -127 ≤ v) (hhi : v ≤ 127) :
    CoefficientsInRange T (b.set j.val (dequant v (T.quant j)) j.isLt) := by
  obtain ⟨hdc, hlev⟩ := h
  refine ⟨?_, fun p hp => ?_⟩
  · have hne : j.val ≠ 0 := fun h => hj (Fin.ext h)
    simpa [hne] using hdc
  · by_cases hpj : j = p
    · subst hpj
      exact ⟨v, hlo, hhi, by simpa using toInt_dequant (by omega) (by omega)⟩
    · have hne : j.val ≠ p.val := fun h => hpj (Fin.ext h)
      simpa [hne] using hlev p hp

/-- In a well-formed configuration no zig-zag index but 0 has the natural position 0 (R157). -/
theorem zigzag_ne_zero {zz : Fin 64 → Fin 64} (h : zigzagWf zz) {i : Fin 64} (hi : i ≠ 0) : zz i ≠ 0 := by
  obtain ⟨hinj, hzero⟩ := h
  exact fun h0 => hi (hinj i 0 (h0.trans hzero.symm))

/-- A valid level entry of a well-formed configuration has a value within 127 (R145). -/
theorem levTabWf_value {tab : BitVec 15 → Config.LevEntry} (h : levTabWf tab) {w : BitVec 15}
    (hv : (tab w).valid = true) : -127 ≤ (tab w).value ∧ (tab w).value ≤ 127 := by
  have hw := h w
  rw [if_pos hv] at hw
  obtain ⟨-, -, hlo, hhi, -⟩ := hw
  exact ⟨hlo, hhi⟩

/-- Whatever GETBLK reads, and however it ends, its coefficients are within the ranges: each pair stores a level at a
place from zig-zag index 1 on. -/
theorem coefficientsInRange_getblk {T : Config.Tables} (hT : tablesWf T) (hc : Bool) (s : State) :
    CoefficientsInRange T (getblk T hc s).blk := by
  obtain ⟨-, hlev, hzig⟩ := hT
  have hdc := coefficientsInRange_dc T (dcWindow (startGetblk hc s))
  refine getblk_ind T hc s (fun t => 1 ≤ t.zz ∧ CoefficientsInRange T t.blk) (fun t => CoefficientsInRange T t.blk)
    (fun _ => ?_) (fun _ => ⟨le_rfl, ?_⟩) (fun t e hI _ _ => ?_) (fun t e u f hI _ _ hu hf => ?_)
  · simpa [finishGetblk] using hdc
  · simpa using hdc
  · simpa [failGetblk] using hI.2
  · obtain ⟨hz, hblk⟩ := hI
    subst hu
    refine ⟨fun _ => ?_, fun _ _ => ?_, fun _ _ _ => ?_, fun hv _ hlt => ⟨Nat.succ_pos _, ?_⟩⟩
    · simpa [failGetblk] using hblk
    · simpa [finishGetblk] using hblk
    · simpa [failGetblk] using hblk
    · subst hf
      obtain ⟨hlo, hhi⟩ := levTabWf_value hlev hv
      have hindex : (⟨t.zz + e.run, hlt⟩ : Fin 64) ≠ 0 := Fin.ne_of_val_ne (show t.zz + e.run ≠ 0 by omega)
      simpa using hblk.set (zigzag_ne_zero hzig hindex) hlo hhi

/-- No default quantiser is above 31 (R159). -/
theorem quant_le (p : Fin 64) : (quant p).toNat ≤ 31 := by
  rw [quant, BitVec.toNat_ofNat]
  omega

/-- Settles O34: the ranges in every well-formed configuration, and the default quantisers' bounds. -/
theorem coefficientsAreInRange : Obligations.CoefficientsAreInRange := by
  refine ⟨fun T hT hc s => coefficientsInRange_getblk hT hc s, fun hc s => ⟨_, rfl, ?_⟩⟩
  obtain ⟨⟨d, hd, hdc⟩, hlev⟩ := coefficientsInRange_getblk defaultTablesAreWellFormed hc s
  have hquant : (tables.quant 0).toNat = 3 := rfl
  rw [hquant] at hdc
  rw [hdc]
  refine ⟨by omega, by omega, fun p hp => ?_⟩
  obtain ⟨v, hlo, hhi, hval⟩ := hlev p hp
  rw [hval]
  exact product_bounds hlo hhi (quant_le p)

end Sys2Proof.Machine
end

section
/-! PROOFS. The symbols in any state: what each consumes, stores and leaves alone (R133 to R140, R147 to R155, R160,
R172 to R177). -/

namespace Sys2Proof.Machine

-- The DC field

/-- A DC field's product is the word of the natural number (R162). -/
theorem dequant_natCast (n : Nat) (q : BitVec 8) : dequant n q = BitVec.ofNat 32 (n * q.toNat) := by
  rw [dequant, ← Nat.cast_mul, BitVec.ofInt_natCast]

/-- Settles O38: with DCONLY = 0 the first pair is awaited, else the block is finished. -/
theorem dcSymbolCompletes : Obligations.DcSymbolCompletes := by
  intro s d
  have hexec : exec (.dc d) s = .next (dcSymbol tables d s) := rfl
  have hstore : dequant d.toNat (tables.quant 0) = BitVec.ofNat 32 (3 * d.toNat) := by
    rw [dequant_natCast, Nat.mul_comm]
    rfl
  refine ⟨fun h => ?_, fun h => ?_⟩
  · rw [hexec, dcSymbol_of_pairs tables d h, hstore]
    simp [awaitRun, writeBlk]
  · rw [hexec, dcSymbol_of_dcOnly tables d h, hstore]
    simp [finishGetblk, endGetblk, setBlkvalid, writeBlk]

-- The window looked at, then the code consumed

/-- A window looked at and its code consumed are the cursor's alone. -/
theorem skip_fill_frame (m n : Nat) (s : State) : skip m (fill n s) = withCursor s (skip m (fill n s)) := by
  rw [skip_frame m (fill n s), fill_frame n s]
  rfl

/-- A window of at most 32 bits looked at and m bits consumed move the position by m. -/
theorem AtPos.skip_fill {s : State} {P m n : Nat} (h : AtPos s P) (hm : m ≤ 32) (hn : n ≤ 32) :
    AtPos (Machine.skip m (Machine.fill n s)) (P + m) :=
  (h.fill hn).skip hm

-- Run codes

/-- A run class with a run completes with it (R173). -/
theorem exec_runCode {i : Instr} {n r : Nat} (hi : runEntryOf i = some ⟨true, n, r⟩) (s : State) :
    exec i s = .next (afterRun n r s) :=
  (exec_of_runEntryOf hi s).trans (congrArg Host.Outcome.next (runSymbol_of_valid rfl s))

/-- Settles O39: each class has its entry, and a run code is the cursor's movement and the run kept. -/
theorem runSymbolsComplete : Obligations.RunSymbolsComplete := by
  refine fun s => ⟨exec_runCode rfl s, exec_runCode rfl s, fun _ => exec_runCode rfl s, fun _ => exec_runCode rfl s,
    fun _ => exec_runCode rfl s, fun _ => exec_runCode rfl s, fun _ => exec_runCode rfl s,
    fun n r => ⟨?_, fun P hn h => ?_⟩⟩
  · exact congrArg (fun t : State => { t with phase := .level, run := r }) (skip_fill_frame n 12 s)
  · exact AtPos_congr (h.skip_fill (m := n) (n := 12) (by omega) (by decide)) rfl rfl rfl rfl rfl

-- Level codes

/-- A level class with a value completes with it: stored at its place, or OVERRUN (R175, R176). -/
theorem exec_levelCode {i : Instr} {n : Nat} {v : Int} (hi : levEntryOf i = some ⟨true, n, v, false⟩) (s : State) :
    exec i s = .next (afterLevel n v s) := by
  rw [exec_of_levEntryOf hi, afterLevel]
  by_cases hz : s.zz + s.run ≤ 63
  · have hplace : Fin.ofNat 64 (s.zz + s.run) = ⟨s.zz + s.run, by omega⟩ := Fin.ext (Nat.mod_eq_of_lt (by omega))
    rw [if_pos hz, levSymbol_of_place tables rfl rfl (by omega)]
    simp only [hplace, awaitRun, writeBlk, dequant, skip_blk, fill_blk]
  · rw [if_neg hz, levSymbol_of_overrun tables rfl rfl (by omega)]
    rfl

/-- A level code moves the position by its length, stored or not. -/
theorem AtPos.afterLevel {s : State} {P n : Nat} (h : AtPos s P) (hn : n ≤ 15) (v : Int) :
    AtPos (afterLevel n v s) (P + n) := by
  have hskip : AtPos (Machine.skip n (Machine.fill 15 s)) (P + n) := h.skip_fill (by omega) (by decide)
  unfold Machine.afterLevel
  split_ifs <;> exact AtPos_congr hskip rfl rfl rfl rfl rfl

/-- Settles O40: each class has its entry, and a level code is stored or overruns. -/
theorem levelSymbolsComplete : Obligations.LevelSymbolsComplete := fun s _ =>
  ⟨exec_levelCode rfl s, fun _ => exec_levelCode rfl s, fun _ => exec_levelCode rfl s, fun _ => exec_levelCode rfl s,
    fun _ => exec_levelCode rfl s, fun _ => exec_levelCode rfl s, fun _ => exec_levelCode rfl s,
    fun _ v _ hn h => h.afterLevel hn v⟩

/-- Settles O41: the end-of-block entry consumes its two bits, and the block is finished. -/
theorem eobSymbolEndsTheBlock : Obligations.EobSymbolEndsTheBlock := by
  intro s
  refine ⟨finishGetblk (skip 2 (fill 15 s)), (exec_of_levEntryOf rfl s).trans ?_, ?_, fun P h => ?_⟩
  · exact congrArg Host.Outcome.next (levSymbol_of_eob tables (f := eobEntry) rfl rfl s)
  · exact congrArg finishGetblk (skip_fill_frame 2 15 s)
  · exact (atPos_finishGetblk _ _).mpr (h.skip_fill (by decide) (by decide))

-- The invalid windows

/-- An error after a window was looked at: the frame it leaves, and the position it stays at (R177, R196). -/
theorem failGetblk_fill (c : Cause) {n : Nat} (hn : n ≤ 32) (s : State) :
    failGetblk c (fill n s) =
        { withCursor s (failGetblk c (fill n s)) with
          err := true, cause := causeCode c, phase := .idle, zz := 0, run := 0 } ∧
      ∀ P, AtPos s P → AtPos (failGetblk c (fill n s)) P :=
  ⟨congrArg (failGetblk c) (fill_frame n s), fun P h => (atPos_failGetblk c _ P).mpr (h.fill hn)⟩

/-- Settles O42: the invalid classes have the zero entries, which end the block with their errors. -/
theorem invalidSymbolsRaiseTheirErrors : Obligations.InvalidSymbolsRaiseTheirErrors := by
  refine fun s => ⟨⟨_, ?_, failGetblk_fill .badRun (n := 12) (by decide) s⟩,
    ⟨_, ?_, failGetblk_fill .badLevel (n := 15) (by decide) s⟩⟩
  · exact (exec_of_runEntryOf rfl s).trans (congrArg Host.Outcome.next (runSymbol_of_invalid rfl s))
  · exact (exec_of_levEntryOf rfl s).trans (congrArg Host.Outcome.next (levSymbol_of_invalid tables rfl s))

end Sys2Proof.Machine
end

section
/-! PROOFS. The errors of a block in the stream: BAD_RUN and BAD_LEVEL at a window with no complete code (R140, R155,
R177, R192, R193, R198). -/

namespace Sys2Proof.Machine

/-- A run window below 32 has the zeros that select RUN_INVALID (R140). -/
theorem codeAt_runInvalid {s : State} {P : Nat} (h : streamVal s P 12 < 32) : CodeAt s P .runInvalid := by
  have hzeros : streamVal s P 7 = 0 := by
    rw [← streamVal_div s P (show 7 ≤ 12 by decide)]
    exact Nat.div_eq_of_lt h
  exact hzeros

/-- A level window below 128 has the zeros that select LEV_INVALID (R155). -/
theorem codeAt_levInvalid {s : State} {P : Nat} (h : streamVal s P 15 < 128) : CodeAt s P .levInvalid := by
  have hzeros : streamVal s P 8 = 0 := by
    rw [← streamVal_div s P (show 8 ≤ 15 by decide)]
    exact Nat.div_eq_of_lt h
  exact hzeros

/-- Settles O29: after the pairs the window has the invalid entry, which ends the block. -/
theorem invalidRunWindowRaisesBadRun : Obligations.InvalidRunWindowRaisesBadRun := by
  intro s P ps h hfit hat hwindow
  obtain ⟨t, hpair, hget⟩ := atPair_after_pairs h hfit hat
  have hentry := (codeAt_runInvalid hwindow).runAt_eq (e := invalidRunEntry) rfl
  have hend := hpair.symbolAt_invalid (T := tables) (by rw [hentry]; rfl)
  have hblock : getblk tables true s = symbolAt tables t := hget 1 (congrArg State.phase hend.1)
  rw [← hblock] at hend
  exact ⟨_, rfl, hend⟩

/-- Settles O30: after the pairs and the run code, which is consumed whatever its run, the window has the invalid
entry, which ends the block. -/
theorem invalidLevelWindowRaisesBadLevel : Obligations.InvalidLevelWindowRaisesBadLevel := by
  intro s P ps r h hfit hat hr hrun hwindow
  obtain ⟨t, hpair, hget⟩ := atPair_after_pairs h hfit hat
  have hentry := (codeAt_levInvalid hwindow).levAt_eq (f := invalidLevEntry) rfl
  have hend := (hpair.symbolAt_runCode hr hrun).symbolAt_invalid (T := tables) (by rw [hentry]; rfl)
  have hblock : getblk tables true s = symbolAt tables (symbolAt tables t) := hget 2 (congrArg State.phase hend.1)
  rw [← hblock] at hend
  exact ⟨_, rfl, hend⟩

end Sys2Proof.Machine
end

section
/-! PROOFS. GETBLK as a whole: it ends whatever it reads, what BLK held before it plays no part, a GETBLK 0 is its DC
field in any state, and an overrunning pair ends a GETBLK 1 (R171, R172, R176, R179, R191). -/

namespace Sys2Proof.Machine

/-- Settles O31: either outcome of a GETBLK leaves no command running and no transient state. -/
theorem getblkAlwaysEnds : Obligations.GetblkAlwaysEnds := by
  have hends : ∀ (T : Config.Tables) (hc : Bool) (s : State),
      (getblk T hc s).phase = .idle ∧ (getblk T hc s).zz = 0 ∧ (getblk T hc s).run = 0 := fun T hc s => by
    rcases getblkOutcome_getblk T hc s with hend | ⟨-, c, -, -, hend⟩ <;> rw [hend] <;> exact ⟨rfl, rfl, rfl⟩
  exact ⟨hends, fun hc s => ⟨_, rfl, (hends tables hc s).1⟩⟩

/-- GETBLK begins with the zero fill, so it makes the same of any block (R171). -/
theorem getblk_withBlk (T : Config.Tables) (hc : Bool) (s : State) (b : Vector Word 64) :
    getblk T hc { s with blk := b } = getblk T hc s := by
  have hstart : startGetblk hc { s with blk := b } = startGetblk hc s := rfl
  rw [getblk_eq_iterate, getblk_eq_iterate, hstart]

/-- Settles O33: the zero fill overwrites the old block before anything is read. -/
theorem getblkForgetsTheOldBlock : Obligations.GetblkForgetsTheOldBlock := fun s b hc =>
  ⟨congrArg Host.Outcome.next (getblk_withBlk tables hc s b),
    fun T => congrArg Host.Outcome.next (getblk_withBlk T hc s b)⟩

-- GETBLK 0

/-- GETBLK 0 is the DC field, and then the block is finished (R172). -/
theorem getblk_false (T : Config.Tables) (s : State) :
    getblk T false s = finishGetblk (writeBlk 0 (dequant (dcWindow (startGetblk false s)).toNat (T.quant 0))
      (skip 10 (startGetblk false s))) :=
  getblk_eq_of_iterate (k := 1)
    ((symbolAt_dc T (s := startGetblk false s) rfl).trans (dcSymbol_of_dcOnly T _ (s := startGetblk false s) rfl)) rfl

/-- The start of a GETBLK leaves the cursor: a fill after it is the fill before it. -/
theorem fill_startGetblk (n : Nat) (hc : Bool) (s : State) : fill n (startGetblk hc s) = startGetblk hc (fill n s) := by
  unfold fill
  rw [startGetblk_cnt]
  split_ifs <;> rfl

/-- After the start of a GETBLK the same bits are peeked. -/
theorem peekBits_startGetblk (n : Nat) (hc : Bool) (s : State) : peekBits n (startGetblk hc s) = peekBits n s := by
  rw [peekBits, fill_startGetblk]
  rfl

/-- The DC coefficient of the 10 bits at the cursor, stored over the zero fill (R171, R172). -/
theorem blk_dcWindow (T : Config.Tables) (hc : Bool) (s : State) :
    (writeBlk 0 (dequant (dcWindow (startGetblk hc s)).toNat (T.quant 0)) (skip 10 (startGetblk hc s))).blk =
      dcBlk T (peekBits 10 s) := by
  have hwindow : (dcWindow (startGetblk hc s)).toNat = peekBits 10 s := by
    rw [dcWindow, peekBits_startGetblk, BitVec.toNat_ofNat, Nat.mod_eq_of_lt (peekBits_lt 10 s)]
  rw [hwindow, dequant_natCast]
  simp [dcBlk, zeroBlk]

/-- Settles O26: the DC field in any state, its 10 bits those of the stream from a position. -/
theorem dcOnlyBlockCompletes : Obligations.DcOnlyBlockCompletes := by
  refine fun s => ⟨getblk tables false s, rfl, ?_, fun hcnt => ?_, fun P h => ?_⟩
  · rw [getblk_false, ← blk_dcWindow tables false s]
    exact BlockFrame.finishGetblk_eq (by simp [BlockFrame])
  · rw [getblk_false, skip_of_le (s := startGetblk false s) hcnt]
    rfl
  · obtain ⟨hend, hpos⟩ := getblk_false_eq (T := tables) h
    exact ⟨hpos, congrArg State.blk hend⟩

-- OVERRUN

/-- A level code in the stream whose value has no place ends the block with OVERRUN, its bits consumed and nothing
stored (R176, R191). -/
theorem AtLevel.symbolAt_overrunCode {s t : State} {P i r : Nat} {v : Int} {b : Vector Word 64}
    (h : AtLevel s t P i r b) (h0 : v ≠ 0) (hv : v.natAbs ≤ 127) (hz : 63 < i + r) (hlev : CodeAt s P (levSymbolOf v)) :
    symbolAt tables t = afterGetblk s (symbolAt tables t) true b false true 1 ∧
      AtPos (symbolAt tables t) (P + (symbolCode (levSymbolOf v)).1) := by
  have hentry := hlev.levAt_eq (levEntryOf_levSymbolOf h0 hv)
  have hend := h.symbolAt_overrun entriesInRange_tables (by rw [hentry]; rfl) (by rw [hentry]; rfl) hz
  rwa [hentry] at hend

/-- Settles O28: after the pairs that fit, the run code is consumed and the level code overruns. -/
theorem overrunningPairRaisesOverrun : Obligations.OverrunningPairRaisesOverrun := by
  intro s P ps r v h hfit hat hr h0 hv hz hrun hlev
  obtain ⟨t, hpair, hget⟩ := atPair_after_pairs h hfit hat
  have hend := (hpair.symbolAt_runCode hr hrun).symbolAt_overrunCode h0 hv hz hlev
  have hblock : getblk tables true s = symbolAt tables (symbolAt tables t) := hget 2 (congrArg State.phase hend.1)
  rw [← hblock] at hend
  exact ⟨_, rfl, hend⟩

end Sys2Proof.Machine
end

section
/-! PROOFS. What takes no effect but on ERR and CAUSE, and what takes none: a word that is no legal command, and a step
with nothing to do (R194, R209). -/

namespace Sys2Proof.Machine

/-- Settles O4: the decoder accepts no word that is not legal, and a word it rejects takes ILLEGAL_CMD. -/
theorem illegalCommandSetsErrAndCauseOnly : Obligations.IllegalCommandSetsErrAndCauseOnly :=
  fun _ s hill => hostAction_cmd_illegal hill s

/-- Settles O49: no symbol is fetched between commands, and no host action waits. -/
theorem idleMachineHoldsItsState : Obligations.IdleMachineHoldsItsState :=
  fun _ hphase hinbox => fetchAndRunBy_idle_nil runPlaced hphase hinbox

end Sys2Proof.Machine
end
